-- ==== Sys2Proof/Word.lean ====
section
/-! DEFINITION. The word types of the block (00_scope.md R12). -/

namespace Sys2Proof

/-- A byte: 8 bits, unsigned (R12). -/
abbrev Byte := BitVec 8

/-- A 16-bit value: CRC, parameter, payload length, `MAX_FRAME` (R12). -/
abbrev Word16 := BitVec 16

end Sys2Proof
end

