-- ==== Sys2Proof/Packet.lean ====
section
/-! DEFINITION. The data the block moves: kinds, packets, templates, what a decoded header says (10_state.md R42, R43). -/

namespace Sys2Proof

/-- The packet class, 3 bits (R42, R118). `undefined5` to `undefined7` are the values the source does not name (R119). -/
inductive Kind where
  | data | reserved | positiveAck | negativeAck | request | undefined5 | undefined6 | undefined7
  deriving DecidableEq, Repr, Inhabited

/-- "Message — {command: 8-bit code, parameter: 16-bit signed/unsigned value}" (R18, R42). -/
structure Message where
  command : Byte
  parameter : Word16
  deriving DecidableEq, Repr, Inhabited

/-- The five header bytes' fields, common to both formats (R112). -/
structure Header where
  parity : BitVec 2
  version : BitVec 6
  encrypted : Bool
  port : BitVec 4
  kind : Kind
  seq : Byte
  src : Byte
  dst : Byte
  deriving DecidableEq, Repr, Inhabited

/-- *Packet*, "the decoded protocol unit" (R42). There is no length field: the length is `payload.length`. -/
structure Packet extends Header where
  msg : Option Message
  payload : List Byte
  crc : Option Word16
  fail : Bool
  deriving DecidableEq, Repr, Inhabited

/-- The template the host gives ENQUEUE (R323); `seq`, `parity`, `fail` and `crc` are the block's to fill in. -/
structure Template where
  kind : Kind
  version : BitVec 6
  encrypted : Bool
  port : BitVec 4
  src : Byte
  dst : Byte
  msg : Message
  payload : List Byte
  deriving DecidableEq, Repr, Inhabited

/-- The two frame formats (R112, R115). -/
inductive FrameFormat where
  | formatC | formatM
  deriving DecidableEq, Repr, Inhabited

/-- The two incoming queues classification chooses between (R210). -/
inductive InQueue where
  | qData | qAck
  deriving DecidableEq, Repr, Inhabited

/-- What the codec reads from header byte 1 (R114): the fields, the format `kind` selects (R116), and the queue R210 puts an
undamaged packet of that kind in (`none`: dropped). -/
structure KindReading where
  encrypted : Bool
  port : BitVec 4
  kind : Kind
  format : FrameFormat
  queue : Option InQueue
  deriving DecidableEq, Repr, Inhabited

end Sys2Proof
end

