-- ==== Sys2Proof/Config.lean ====
section
/-! DEFINITION. The parameters of 00_scope.md R9 and the values the spec leaves free. -/

namespace Sys2Proof

/-- `PARITY_FN` (R9, D8): a constant (the spec's default is the constant 0), or the `k`-th uninterpreted function. -/
inductive ParityChoice where
  | constant (v : BitVec 2)
  | uninterpreted (k : Nat)
  deriving DecidableEq, Repr, Inhabited

/-- The six named arguments of the model (R9). A statement about every state is a statement about every value of them. -/
structure Params where
  resetCmd : Byte
  resetMask : Byte
  parity : ParityChoice
  protocolVersion : BitVec 6
  /-- `none`: unbounded, the reference (R84). -/
  qDepth : Option Nat
  /-- `none`: an unbounded natural, the reference (R372). -/
  timeW : Option Nat
  deriving DecidableEq, Repr, Inhabited

/-- The parity functions nothing is known of (R9: `PARITY_FN` is OPEN; log 8). -/
opaque Config.parityFn : Nat → Packet → BitVec 2

/-- The message ENCODE writes for a Data or Request packet that has none: the spec states no bytes there (R192; log 14). -/
opaque Config.absentMessage : Header → List Byte → Message

/-- The length field ENCODE writes for a payload longer than the 65535 bytes of R42: the spec states none (R192; log 14). -/
opaque Config.overlongLength : Nat → Word16

/-- The values of `t_req`, `t_send` and `WORKER_PRIORITY` that OPEN leaves unspecified (R59, U11; log 6). -/
opaque Config.freeNat : Nat → Nat

/-- Whether a CLOSE beside a worker that stands still gives up its bounded wait: the spec gives neither the bound nor what follows (R327,
U10; log 10). -/
opaque Config.closeGivesUp : Nat → Bool

/-- The parameters at their defaults (R9). DESIGN CHOICE for `RESET_CMD` and `RESET_MASK`, which have none (log 8): 0 and 0, with
which reset detection never fires (R423). -/
def Config.defaults : Params :=
  { resetCmd := 0, resetMask := 0, parity := .constant 0, protocolVersion := 1, qDepth := none, timeW := none }

end Sys2Proof
end

