-- ==== Sys2Proof/Syntax.lean ====
section
/-! DEFINITION. The instructions: one constructor per row of spec/opcode_table.json, and the levels their bytes are read at. -/

namespace Sys2Proof

/-- Which table of the spec a byte string is read by. The rows of the opcode table number seven separate code spaces: a byte 01 is
OPEN, `ACK_TIMEOUT`, SOH or kind Reserved by where it stands (R110, R123, R124; log 2). -/
inductive Level where
  /-- an operation code and its operands (R123) -/
  | operation
  /-- a register number of SET_CONFIG and the value (R124) -/
  | register
  /-- one byte of the received stream (R111) -/
  | stream
  /-- one item of stuffed content (R121) -/
  | content
  /-- header byte 1 of an unstuffed frame (R114) -/
  | header
  /-- the unstuffed form of a frame (R112, R115) -/
  | frame
  /-- the wire form of a frame (R117) -/
  | wire
  deriving DecidableEq, Repr, Inhabited

/-- Every row of spec/opcode_table.json. -/
inductive Instr where
  -- the eleven operations (R10, R123)
  | openLink (localAddr : Byte)
  | close
  | enqueue (t : Template)
  | setConfig (reg : BitVec 3) (value : Nat)
  | tick (now : Nat)
  | rxByte (b : Byte)
  | crc16 (buf : List Byte) (n : Nat)
  | stuff (x : List Byte)
  | unstuff (y : List Byte)
  | encode (p : Packet)
  | decode (r : List Byte)
  -- SET_CONFIG by register (R45 to R52, R330)
  | setLocalAddr (value : Byte)
  | setAckTimeout (value : Nat)
  | setRespTimeout (value : Nat)
  | setMaxRetx (value : Byte)
  | setIdleDelay (value : Nat)
  | setMaxFrame (value : Word16)
  | setWorkerPriority (value : Nat)
  | setReserved7
  -- byte classes of the received stream (R111)
  | soh
  | eot
  | content (b : Byte)
  -- items of stuffed content (R121, R175)
  | esc00
  | esc01
  | esc02
  | esc03
  | esc04
  | esc0A
  | esc0D
  | esc10
  | esc17
  | escAny (v : Byte)
  | shiftDangling
  | plain (b : Byte)
  -- header byte 1, by kind (R114, R118)
  | kindData (encrypted : Bool) (port : BitVec 4)
  | kindReserved (encrypted : Bool) (port : BitVec 4)
  | kindPositiveAck (encrypted : Bool) (port : BitVec 4)
  | kindNegativeAck (encrypted : Bool) (port : BitVec 4)
  | kindRequest (encrypted : Bool) (port : BitVec 4)
  | kind5 (encrypted : Bool) (port : BitVec 4)
  | kind6 (encrypted : Bool) (port : BitVec 4)
  | kind7 (encrypted : Bool) (port : BitVec 4)
  -- frames (R112, R115, R117)
  | formatC (h : Header)
  | formatM (h : Header) (m : Message) (payload : List Byte) (crc : Word16)
  | wire (u : List Byte)
  deriving DecidableEq, Repr, Inhabited

end Sys2Proof
end

