-- ==== Sys2Proof/Machine/Codec.lean ====
section
/-! DEFINITION. The pure units: byte order, CRC16 (40_crc.md), STUFF and UNSTUFF (41_stuffing.md), ENCODE and DECODE
(42_frame_codec.md). -/

namespace Sys2Proof.Machine
open Sys2Proof

/-! ### Byte order and fields (R86, R113, R114, R120) -/

/-- `w[7:0]`, the byte that is sent first (R86). -/
def lowByte (w : Word16) : Byte := w.extractLsb' 0 8

/-- `w[15:8]` (R86). -/
def highByte (w : Word16) : Byte := w.extractLsb' 8 8

/-- A 16-bit field from its two bytes, low byte first (R120). -/
def word16 (lo hi : Byte) : Word16 := hi.zeroExtend 16 <<< 8 ||| lo.zeroExtend 16

/-- The 16-bit field holding the length `n`: `n[7:0]`, `n[15:8]`, for `n` from 0 to 65535 (R192); a free value above (log 14). -/
def lengthField (n : Nat) : Word16 := if n ≤ 65535 then BitVec.ofNat 16 n else Config.overlongLength n

/-- The numbering of the kinds (R118). -/
def kindCode : Kind → BitVec 3
  | .data => 0 | .reserved => 1 | .positiveAck => 2 | .negativeAck => 3
  | .request => 4 | .undefined5 => 5 | .undefined6 => 6 | .undefined7 => 7

/-- The kind of a 3-bit value (R118). -/
def kindOf (v : BitVec 3) : Kind :=
  if v = 0 then .data else if v = 1 then .reserved else if v = 2 then .positiveAck else if v = 3 then .negativeAck
  else if v = 4 then .request else if v = 5 then .undefined5 else if v = 6 then .undefined6 else .undefined7

/-- *Message kind*: Data or Request (R19, R116). -/
def isMessage (k : Kind) : Bool := k = .data || k = .request

/-- *Control kind*: PositiveAck or NegativeAck (R19). -/
def isControl (k : Kind) : Bool := k = .positiveAck || k = .negativeAck

/-- The format is decided by `kind` alone (R116). -/
def formatOf (k : Kind) : FrameFormat := if isMessage k then .formatM else .formatC

/-- Header byte 0, `(parity << 6) | version` (R113). -/
def headerByte0 (parity : BitVec 2) (version : BitVec 6) : Byte :=
  parity.zeroExtend 8 <<< 6 ||| version.zeroExtend 8

/-- Header byte 1, `(encrypted << 7) | (port << 3) | kind` (R114). -/
def headerByte1 (encrypted : Bool) (port : BitVec 4) (kind : Kind) : Byte :=
  (BitVec.ofBool encrypted).zeroExtend 8 <<< 7 ||| port.zeroExtend 8 <<< 3 ||| (kindCode kind).zeroExtend 8

/-- `byte0[7:6]` (R113). -/
def parityField (b : Byte) : BitVec 2 := b.extractLsb' 6 2

/-- `byte0[5:0]` (R113). -/
def versionField (b : Byte) : BitVec 6 := b.extractLsb' 0 6

/-- `byte1[7]` (R114). -/
def encryptedField (b : Byte) : Bool := b.getLsbD 7

/-- `byte1[6:3]` (R114). -/
def portField (b : Byte) : BitVec 4 := b.extractLsb' 3 4

/-- `byte1[2:0]` (R114). -/
def kindField (b : Byte) : Kind := kindOf (b.extractLsb' 0 3)

/-! ### CRC16 (R150 to R155) -/

/-- `CRC_TABLE[00..3F]` (R152). -/
def crcTable0 : List Word16 :=
  [0x0000, 0xC0C1, 0xC181, 0x0140, 0xC301, 0x03C0, 0x0280, 0xC241,
   0xC601, 0x06C0, 0x0780, 0xC741, 0x0500, 0xC5C1, 0xC481, 0x0440,
   0xCC01, 0x0CC0, 0x0D80, 0xCD41, 0x0F00, 0xCFC1, 0xCE81, 0x0E40,
   0x0A00, 0xCAC1, 0xCB81, 0x0B40, 0xC901, 0x09C0, 0x0880, 0xC841,
   0xD801, 0x18C0, 0x1980, 0xD941, 0x1B00, 0xDBC1, 0xDA81, 0x1A40,
   0x1E00, 0xDEC1, 0xDF81, 0x1F40, 0xDD01, 0x1DC0, 0x1C80, 0xDC41,
   0x1400, 0xD4C1, 0xD581, 0x1540, 0xD701, 0x17C0, 0x1680, 0xD641,
   0xD201, 0x12C0, 0x1380, 0xD341, 0x1100, 0xD1C1, 0xD081, 0x1040]

/-- `CRC_TABLE[40..7F]` (R152). -/
def crcTable1 : List Word16 :=
  [0xF001, 0x30C0, 0x3180, 0xF141, 0x3300, 0xF3C1, 0xF281, 0x3240,
   0x3600, 0xF6C1, 0xF781, 0x3740, 0xF501, 0x35C0, 0x3480, 0xF441,
   0x3C00, 0xFCC1, 0xFD81, 0x3D40, 0xFF01, 0x3FC0, 0x3E80, 0xFE41,
   0xFA01, 0x3AC0, 0x3B80, 0xFB41, 0x3900, 0xF9C1, 0xF881, 0x3840,
   0x2800, 0xE8C1, 0xE981, 0x2940, 0xEB01, 0x2BC0, 0x2A80, 0xEA41,
   0xEE01, 0x2EC0, 0x2F80, 0xEF41, 0x2D00, 0xEDC1, 0xEC81, 0x2C40,
   0xE401, 0x24C0, 0x2580, 0xE541, 0x2700, 0xE7C1, 0xE681, 0x2640,
   0x2200, 0xE2C1, 0xE381, 0x2340, 0xE101, 0x21C0, 0x2080, 0xE041]

/-- `CRC_TABLE[80..BF]` (R152). -/
def crcTable2 : List Word16 :=
  [0xA001, 0x60C0, 0x6180, 0xA141, 0x6300, 0xA3C1, 0xA281, 0x6240,
   0x6600, 0xA6C1, 0xA781, 0x6740, 0xA501, 0x65C0, 0x6480, 0xA441,
   0x6C00, 0xACC1, 0xAD81, 0x6D40, 0xAF01, 0x6FC0, 0x6E80, 0xAE41,
   0xAA01, 0x6AC0, 0x6B80, 0xAB41, 0x6900, 0xA9C1, 0xA881, 0x6840,
   0x7800, 0xB8C1, 0xB981, 0x7940, 0xBB01, 0x7BC0, 0x7A80, 0xBA41,
   0xBE01, 0x7EC0, 0x7F80, 0xBF41, 0x7D00, 0xBDC1, 0xBC81, 0x7C40,
   0xB401, 0x74C0, 0x7580, 0xB541, 0x7700, 0xB7C1, 0xB681, 0x7640,
   0x7200, 0xB2C1, 0xB381, 0x7340, 0xB101, 0x71C0, 0x7080, 0xB041]

/-- `CRC_TABLE[C0..FF]` (R152). -/
def crcTable3 : List Word16 :=
  [0x5000, 0x90C1, 0x9181, 0x5140, 0x9301, 0x53C0, 0x5280, 0x9241,
   0x9601, 0x56C0, 0x5780, 0x9741, 0x5500, 0x95C1, 0x9481, 0x5440,
   0x9C01, 0x5CC0, 0x5D80, 0x9D41, 0x5F00, 0x9FC1, 0x9E81, 0x5E40,
   0x5A00, 0x9AC1, 0x9B81, 0x5B40, 0x9901, 0x59C0, 0x5880, 0x9841,
   0x8801, 0x48C0, 0x4980, 0x8941, 0x4B00, 0x8BC1, 0x8A81, 0x4A40,
   0x4E00, 0x8EC1, 0x8F81, 0x4F40, 0x8D01, 0x4DC0, 0x4C80, 0x8C41,
   0x4400, 0x84C1, 0x8581, 0x4540, 0x8701, 0x47C0, 0x4680, 0x8641,
   0x8201, 0x42C0, 0x4380, 0x8341, 0x4100, 0x81C1, 0x8081, 0x4040]

/-- `CRC_TABLE`: 256 entries of 16 bits, read-only (R53, R152). The entries are general knowledge, not the source's
(PRESUMED, log 17). -/
def crcTable : List Word16 := crcTable0 ++ crcTable1 ++ crcTable2 ++ crcTable3

/-- One byte of the update: `idx <- (c XOR b) & 0xFF`, `c <- (c >> 8) XOR CRC_TABLE[idx]` (R151). -/
def crcUpdate (c : Word16) (b : Byte) : Word16 :=
  c >>> 8 ^^^ crcTable.getD ((c ^^^ b.zeroExtend 16) &&& 0x00FF).toNat 0

/-- `CRC16(buf, n)`: the checksum of the first `n` bytes, from 0xFFFF (R150, R151). Its domain is `n <= len(buf)` (R155). -/
def crc16 (buf : List Byte) (n : Nat) : Word16 := (buf.take n).foldl crcUpdate 0xFFFF

/-- One single-bit step of the reflected polynomial (R152, R153). -/
def crcBitStep (c : Word16) : Word16 := if c.getLsbD 0 then c >>> 1 ^^^ 0xA001 else c >>> 1

/-- Eight single-bit steps: the entry of the table at a byte-sized index (R152). -/
def crcEightSteps (c : Word16) : Word16 :=
  crcBitStep (crcBitStep (crcBitStep (crcBitStep (crcBitStep (crcBitStep (crcBitStep (crcBitStep c)))))))

/-! ### STUFF and UNSTUFF (R170 to R176) -/

/-- The start marker, SOH (R111). -/
def sohByte : Byte := 0x01

/-- The end marker, EOT (R111). -/
def eotByte : Byte := 0x04

/-- The shift marker, SHIFT (R111). -/
def shiftByte : Byte := 0x10

/-- `b XOR 0x40`, of an escaped byte and back (R121). -/
def escapeXor (b : Byte) : Byte := b ^^^ 0x40

/-- The nine reserved bytes (R111, R171). -/
def reservedBytes : List Byte := [0x00, 0x01, 0x02, 0x03, 0x04, 0x0A, 0x0D, 0x10, 0x17]

/-- One of the nine reserved bytes (R111). -/
def isReserved (b : Byte) : Bool := reservedBytes.contains b

/-- What STUFF makes of one byte (R171). -/
def stuffByte (b : Byte) : List Byte := if isReserved b then [shiftByte, escapeXor b] else [b]

/-- `STUFF(x)` (R171). -/
def stuff : List Byte → List Byte
  | [] => []
  | b :: x => stuffByte b ++ stuff x

/-- `UNSTUFF(y)` (R174); a shift marker at the very end gives nothing (R175). -/
def unstuff : List Byte → List Byte
  | [] => []
  | [b] => if b = shiftByte then [] else [b]
  | b :: v :: y => if b = shiftByte then escapeXor v :: unstuff y else b :: unstuff (v :: y)

/-! ### Frames (R112, R115, R117) and ENCODE (R190 to R195) -/

/-- `hdr(P)`, the five header bytes (R191). -/
def headerBytes (h : Header) : List Byte :=
  [headerByte0 h.parity h.version, headerByte1 h.encrypted h.port h.kind, h.seq, h.src, h.dst]

/-- `body`: what precedes the CRC field of a message frame (R192). -/
def messageBody (h : Header) (m : Message) (payload : List Byte) : List Byte :=
  headerBytes h ++
  [m.command, lowByte m.parameter, highByte m.parameter,
   lowByte (lengthField payload.length), highByte (lengthField payload.length)] ++ payload

/-- The two bytes of a CRC field, low byte first (R192). -/
def crcBytes (k : Word16) : List Byte := [lowByte k, highByte k]

/-- The CRC ENCODE computes for a message packet, over everything before the CRC field (R192). -/
def messageCrc (h : Header) (m : Message) (payload : List Byte) : Word16 :=
  crc16 (messageBody h m payload) (messageBody h m payload).length

/-- The message of a packet of a message kind, "present" (R42); a free value where it is absent all the same (log 14). -/
def messageOf (p : Packet) : Message :=
  match p.msg with
  | some m => m
  | none => Config.absentMessage p.toHeader p.payload

/-- `unstuffed(P)` for the four kinds ENCODE is defined on: message kinds (R192), control kinds (R193); `none` for the kinds with no
format (R195, U2; log 14). -/
def unstuffed (p : Packet) : Option (List Byte) :=
  if isMessage p.kind then
    some (messageBody p.toHeader (messageOf p) p.payload ++ crcBytes (messageCrc p.toHeader (messageOf p) p.payload))
  else if isControl p.kind then some (headerBytes p.toHeader)
  else none

/-- `wire(u) = 01 ++ STUFF(u) ++ 04` (R117). -/
def wireForm (u : List Byte) : List Byte := [sohByte] ++ stuff u ++ [eotByte]

/-- `ENCODE(P)` (R190, R194). -/
def encodePacket (p : Packet) : Option (List Byte) := (unstuffed p).map wireForm

/-- The packet once ENCODE has computed its CRC: the `crc` field of a message packet is that value from then on (R192, D53). -/
def withCrc (p : Packet) : Packet :=
  if isMessage p.kind then { p with crc := some (messageCrc p.toHeader (messageOf p) p.payload) } else p

/-! ### DECODE (R200 to R206) -/

/-- A byte of the unstuffed form; an absent one reads as 00 (R201, R202). -/
def byteAt (u : List Byte) (i : Nat) : Byte := u.getD i 0

/-- The header of an unstuffed form (R201). -/
def parseHeader (u : List Byte) : Header :=
  { parity := parityField (byteAt u 0), version := versionField (byteAt u 0)
    encrypted := encryptedField (byteAt u 1), port := portField (byteAt u 1), kind := kindField (byteAt u 1)
    seq := byteAt u 2, src := byteAt u 3, dst := byteAt u 4 }

/-- The message of an unstuffed form of a message kind (R202). -/
def parseMessage (u : List Byte) : Message :=
  { command := byteAt u 5, parameter := word16 (byteAt u 6) (byteAt u 7) }

/-- The wire's payload length field, `u[8] | (u[9] << 8)` (R120, R202). -/
def plenField (u : List Byte) : Nat := (word16 (byteAt u 8) (byteAt u 9)).toNat

/-- The steps of DECODE after unstuffing (R201 to R203, R205). -/
def parsePacket (u : List Byte) : Packet :=
  let h := parseHeader u
  if isMessage h.kind then
    if u.length < 12 then
      { toHeader := h, msg := some (parseMessage u), payload := []
        crc := some (word16 (byteAt u 10) (byteAt u 11)), fail := true }
    else
      { toHeader := h, msg := some (parseMessage u), payload := (u.drop 10).take (u.length - 12)
        crc := some (word16 (byteAt u (u.length - 2)) (byteAt u (u.length - 1)))
        fail := crc16 u u.length != 0 || plenField u != u.length - 12 }
  else
    { toHeader := h, msg := none, payload := [], crc := none, fail := decide (u.length < 5) }

/-- `r[1 .. len(r)-1)`, the content without the two delimiters (R201). -/
def frameContent (r : List Byte) : List Byte := (r.drop 1).take (r.length - 2)

/-- `DECODE(r)` (R200, R201), by the same formula on bytes that are no RawFrame (log 15). -/
def decodeFrame (r : List Byte) : Packet := parsePacket (unstuff (frameContent r))

/-- The queue R210 puts an undamaged packet of this kind in. -/
def queueOfKind (k : Kind) : Option InQueue :=
  if isMessage k then some .qData else if isControl k then some .qAck else none

/-- The queue R210 puts a decoded packet in. -/
def queueOf (p : Packet) : Option InQueue := if p.fail then some .qData else queueOfKind p.kind

/-- What the codec reads from header byte 1 (R114, R116, R210). -/
def readKindByte (b : Byte) : KindReading :=
  { encrypted := encryptedField b, port := portField b, kind := kindField b
    format := formatOf (kindField b), queue := queueOfKind (kindField b) }

/-- *RawFrame*, but for its length bound, which is the configuration's (R43). -/
def isRawFrame (r : List Byte) : Bool :=
  decide (2 ≤ r.length) && r.head? == some sohByte && r.getLast? == some eotByte && !(r.dropLast.contains eotByte)

end Sys2Proof.Machine
end

