-- ==== Sys2Proof/WellFormed.lean ====
section
/-! DEFINITION. Which instruction terms stand for a row of the opcode table with legal operands. -/

namespace Sys2Proof
open Sys2Proof.Machine

/-- The second bytes of the nine escape pairs a sender produces (R121). -/
def escapeCodes : List Byte := reservedBytes.map escapeXor

/-- A legal term of the opcode table: operands inside the ranges the table and the rules give, and no two rows for one encoding
(the nine canonical escapes are their own rows, not ESC_ANY; SOH and EOT are their own rows, not CONTENT). -/
def Instr.wf : Instr → Bool
  -- a payload is at most 65535 bytes (R42)
  | .enqueue t => decide (t.payload.length ≤ 65535)
  -- `n <= len(buf)` (R150)
  | .crc16 buf n => decide (n ≤ buf.length)
  -- ENCODE's four kinds (R190, R195), and the fields R42 gives a Packet of them
  | .encode p => (isControl p.kind || (isMessage p.kind && p.msg.isSome)) && decide (p.payload.length ≤ 65535)
  -- a RawFrame (R43, R200; log 15)
  | .decode r => isRawFrame r
  -- "any byte other than 0x04" (row CONTENT); 0x01 is row SOH
  | .content b => b != sohByte && b != eotByte
  -- the nine canonical pairs are rows of their own
  | .escAny v => !escapeCodes.contains v
  -- "any byte other than 0x10" (row PLAIN)
  | .plain b => b != shiftByte
  -- every kind but Data and Request is Format C (R116)
  | .formatC h => !isMessage h.kind
  -- Data and Request are Format M, with n = plen (R115, R116)
  | .formatM h _ payload _ => isMessage h.kind && decide (payload.length ≤ 65535)
  | .openLink _ => true
  | .close => true
  | .setConfig _ _ => true
  | .tick _ => true
  | .rxByte _ => true
  | .stuff _ => true
  | .unstuff _ => true
  | .setLocalAddr _ => true
  | .setAckTimeout _ => true
  | .setRespTimeout _ => true
  | .setMaxRetx _ => true
  | .setIdleDelay _ => true
  | .setMaxFrame _ => true
  | .setWorkerPriority _ => true
  | .setReserved7 => true
  | .soh => true
  | .eot => true
  | .esc00 => true
  | .esc01 => true
  | .esc02 => true
  | .esc03 => true
  | .esc04 => true
  | .esc0A => true
  | .esc0D => true
  | .esc10 => true
  | .esc17 => true
  | .shiftDangling => true
  | .kindData _ _ => true
  | .kindReserved _ _ => true
  | .kindPositiveAck _ _ => true
  | .kindNegativeAck _ _ => true
  | .kindRequest _ _ => true
  | .kind5 _ _ => true
  | .kind6 _ _ => true
  | .kind7 _ _ => true
  | .wire _ => true

end Sys2Proof
end

