-- ==== Sys2Proof/Decode.lean ====
section
/-! DEFINITION. Decoding, total on any bytes and rejecting by name, at each of the seven levels; then the encoder; then the opcode
table's words. The operand layout of the operation codes is the model's (DESIGN CHOICE, log 3): the spec gives codes only (R123). -/

namespace Sys2Proof
open Sys2Proof.Machine

/-- Why a byte string is no instruction. -/
inductive DecodeError where
  /-- an operation code not in R123 (the block refuses it with `BAD_OP`, R352) -/
  | badOp (code : Byte)
  /-- the bytes end before the operands do (the model's layout, log 3) -/
  | truncated
  /-- an operand byte with no meaning in its place (the model's layout, log 3; or no form of R112, R115, R117) -/
  | badOperand
  deriving DecidableEq, Repr, Inhabited

/-- What a reader of operands gives: the operand and the bytes after it. -/
abbrev Parsed (α : Type) := Except DecodeError (α × List Byte)

/-! ### Reading operands (log 3) -/

/-- The next byte. -/
def readByte : List Byte → Parsed Byte
  | [] => .error .truncated
  | b :: bs => .ok (b, bs)

/-- The next two bytes, low byte first (R86). -/
def readWord16 : List Byte → Parsed Word16
  | lo :: hi :: bs => .ok (word16 lo hi, bs)
  | _ => .error .truncated

/-- A natural: groups of seven bits, least significant first, bit 7 set on every byte but the last (log 3). -/
def readNat : List Byte → Parsed Nat
  | [] => .error .truncated
  | b :: bs =>
    if b.toNat < 128 then .ok (b.toNat, bs)
    else match readNat bs with
      | .ok (v, rest) => .ok (v * 128 + (b.toNat - 128), rest)
      | .error e => .error e

/-- A byte sequence: its length as a natural, then its bytes (log 3). -/
def readBytes (bs : List Byte) : Parsed (List Byte) :=
  match readNat bs with
  | .ok (n, rest) => if n ≤ rest.length then .ok (rest.take n, rest.drop n) else .error .truncated
  | .error e => .error e

/-- A message: command, parameter low byte, parameter high byte (R115's order). -/
def readMessage : List Byte → Parsed Message
  | c :: lo :: hi :: bs => .ok ({ command := c, parameter := word16 lo hi }, bs)
  | _ => .error .truncated

/-- ENQUEUE's template: version, header byte 1, source, destination, message, payload (log 3). -/
def readTemplate : List Byte → Parsed Template
  | v :: h1 :: src :: dst :: bs =>
    if parityField v = 0 then
      match readMessage bs with
      | .ok (m, bs1) =>
        match readBytes bs1 with
        | .ok (payload, rest) =>
          .ok ({ kind := kindField h1, version := versionField v, encrypted := encryptedField h1, port := portField h1
                 src := src, dst := dst, msg := m, payload := payload }, rest)
        | .error e => .error e
      | .error e => .error e
    else .error .badOperand
  | _ => .error .truncated

/-- An operand that is there unless its bit in the flag byte says it is absent (log 3). -/
def readUnless {α : Type} (absent : Bool) (read : List Byte → Parsed α) (bs : List Byte) : Parsed (Option α) :=
  if absent then .ok (none, bs)
  else match read bs with
    | .ok (a, rest) => .ok (some a, rest)
    | .error e => .error e

/-- ENCODE's packet: the five header bytes, a flag byte (bit 0 `fail`, bit 1 no message, bit 2 no CRC), the message, the payload,
the CRC (log 3). -/
def readPacket : List Byte → Parsed Packet
  | h0 :: h1 :: seq :: src :: dst :: flags :: bs =>
    if flags.toNat < 8 then
      match readUnless (flags.getLsbD 1) readMessage bs with
      | .ok (m, bs1) =>
        match readBytes bs1 with
        | .ok (payload, bs2) =>
          match readUnless (flags.getLsbD 2) readWord16 bs2 with
          | .ok (crc, rest) =>
            .ok ({ toHeader := parseHeader [h0, h1, seq, src, dst], msg := m, payload := payload, crc := crc
                   fail := flags.getLsbD 0 }, rest)
          | .error e => .error e
        | .error e => .error e
      | .error e => .error e
    else .error .badOperand
  | _ => .error .truncated

/-- The register number of SET_CONFIG: a byte of which only bits 2:0 may be set (R124, log 3). -/
def readReg : List Byte → Parsed (BitVec 3)
  | [] => .error .truncated
  | b :: bs => if b.toNat < 8 then .ok (b.extractLsb' 0 3, bs) else .error .badOperand

/-- An instruction made from the operand that was read. -/
def build {α : Type} (make : α → Instr) : Parsed α → Parsed Instr
  | .ok (a, rest) => .ok (make a, rest)
  | .error e => .error e

/-- An instruction made from two operands read one after the other. -/
def build2 {α β : Type} (make : α → β → Instr) (readB : List Byte → Parsed β) : Parsed α → Parsed Instr
  | .ok (a, rest) => build (make a) (readB rest)
  | .error e => .error e

/-! ### The seven levels -/

/-- An operation code and its operands (R123); "Every other code is refused with reason `BAD_OP`". -/
def decodeOperation : List Byte → Parsed Instr
  | [] => .error .truncated
  | op :: bs =>
    if op = 0x01 then build .openLink (readByte bs)
    else if op = 0x02 then .ok (.close, bs)
    else if op = 0x03 then build .enqueue (readTemplate bs)
    else if op = 0x04 then build2 .setConfig readNat (readReg bs)
    else if op = 0x05 then build .tick (readNat bs)
    else if op = 0x06 then build .rxByte (readByte bs)
    else if op = 0x10 then build2 .crc16 readNat (readBytes bs)
    else if op = 0x11 then build .stuff (readBytes bs)
    else if op = 0x12 then build .unstuff (readBytes bs)
    else if op = 0x13 then build .encode (readPacket bs)
    else if op = 0x14 then build .decode (readBytes bs)
    else .error (.badOp op)

/-- A register number and the value to write (R124, R45 to R52). -/
def decodeRegister : List Byte → Parsed Instr
  | [] => .error .truncated
  | r :: bs =>
    if r = 0 then build .setLocalAddr (readByte bs)
    else if r = 1 then build .setAckTimeout (readNat bs)
    else if r = 2 then build .setRespTimeout (readNat bs)
    else if r = 3 then build .setMaxRetx (readByte bs)
    else if r = 4 then build .setIdleDelay (readNat bs)
    else if r = 5 then build .setMaxFrame (readWord16 bs)
    else if r = 6 then build .setWorkerPriority (readNat bs)
    else if r = 7 then .ok (.setReserved7, bs)
    else .error .badOperand

/-- A byte of the received stream, by its class (R111). -/
def decodeStream : List Byte → Parsed Instr
  | [] => .error .truncated
  | b :: bs => if b = sohByte then .ok (.soh, bs) else if b = eotByte then .ok (.eot, bs) else .ok (.content b, bs)

/-- The row of an escape pair by its second byte (R121, R175). -/
def escapeRow (v : Byte) : Instr :=
  if v = 0x40 then .esc00 else if v = 0x41 then .esc01 else if v = 0x42 then .esc02 else if v = 0x43 then .esc03
  else if v = 0x44 then .esc04 else if v = 0x4A then .esc0A else if v = 0x4D then .esc0D else if v = 0x50 then .esc10
  else if v = 0x57 then .esc17 else .escAny v

/-- An item of stuffed content: 0x10 starts a two-byte item, every other byte is a one-byte item (R121); 0x10 with nothing after
it is dangling (R175). -/
def decodeContent : List Byte → Parsed Instr
  | [] => .error .truncated
  | [b] => if b = shiftByte then .ok (.shiftDangling, []) else .ok (.plain b, [])
  | b :: v :: bs => if b = shiftByte then .ok (escapeRow v, bs) else .ok (.plain b, v :: bs)

/-- The row of a kind (R118). -/
def kindRow (k : Kind) (encrypted : Bool) (port : BitVec 4) : Instr :=
  match k with
  | .data => .kindData encrypted port
  | .reserved => .kindReserved encrypted port
  | .positiveAck => .kindPositiveAck encrypted port
  | .negativeAck => .kindNegativeAck encrypted port
  | .request => .kindRequest encrypted port
  | .undefined5 => .kind5 encrypted port
  | .undefined6 => .kind6 encrypted port
  | .undefined7 => .kind7 encrypted port

/-- Header byte 1 of an unstuffed frame (R114). -/
def decodeHeader : List Byte → Parsed Instr
  | [] => .error .truncated
  | b :: bs => .ok (kindRow (kindField b) (encryptedField b) (portField b), bs)

/-- A whole unstuffed form: five bytes of Format C, or 12 + n bytes of Format M with `plen` = n (R112, R115). -/
def decodeUnstuffed (u : List Byte) : Parsed Instr :=
  if u.length < 5 then .error .truncated
  else if isMessage (parseHeader u).kind then
    if u.length < 12 then .error .truncated
    else if plenField u = u.length - 12 then
      .ok (.formatM (parseHeader u) (parseMessage u) ((u.drop 10).take (u.length - 12))
        (word16 (byteAt u (u.length - 2)) (byteAt u (u.length - 1))), [])
    else .error .badOperand
  else if u.length = 5 then .ok (.formatC (parseHeader u), [])
  else .error .badOperand

/-- A whole wire form: 01, stuffed content as a sender makes it, 04 (R117). -/
def decodeWire (w : List Byte) : Parsed Instr :=
  if wireForm (unstuff (frameContent w)) = w then .ok (.wire (unstuff (frameContent w)), []) else .error .badOperand

/-- The decoder: the instruction a byte string is at a level, and the bytes after it. -/
def decodeAt (l : Level) (bs : List Byte) : Parsed Instr :=
  match l with
  | .operation => decodeOperation bs
  | .register => decodeRegister bs
  | .stream => decodeStream bs
  | .content => decodeContent bs
  | .header => decodeHeader bs
  | .frame => decodeUnstuffed bs
  | .wire => decodeWire bs

/-! ### The encoder -/

/-- A natural in groups of seven bits; the fuel is at least the number of groups. -/
def writeNatFuel : Nat → Nat → List Byte
  | 0, n => [BitVec.ofNat 8 n]
  | f + 1, n => if n < 128 then [BitVec.ofNat 8 n] else BitVec.ofNat 8 (n % 128 + 128) :: writeNatFuel f (n / 128)

/-- A natural as `readNat` reads it. -/
def writeNat (n : Nat) : List Byte := writeNatFuel n n

/-- A byte sequence as `readBytes` reads it. -/
def writeBytes (x : List Byte) : List Byte := writeNat x.length ++ x

/-- A message as `readMessage` reads it. -/
def writeMessage (m : Message) : List Byte := [m.command, lowByte m.parameter, highByte m.parameter]

/-- A template as `readTemplate` reads it. -/
def writeTemplate (t : Template) : List Byte :=
  [headerByte0 0 t.version, headerByte1 t.encrypted t.port t.kind, t.src, t.dst] ++ writeMessage t.msg ++ writeBytes t.payload

/-- The flag byte of ENCODE's packet (log 3). -/
def packetFlags (p : Packet) : Byte :=
  BitVec.ofNat 8 ((if p.fail then 1 else 0) + (if p.msg.isNone then 2 else 0) + (if p.crc.isNone then 4 else 0))

/-- The bytes of an operand that may be absent. -/
def writeOpt {α : Type} (write : α → List Byte) : Option α → List Byte
  | some a => write a
  | none => []

/-- A packet as `readPacket` reads it. -/
def writePacket (p : Packet) : List Byte :=
  headerBytes p.toHeader ++ [packetFlags p] ++ writeOpt writeMessage p.msg ++ writeBytes p.payload ++ writeOpt crcBytes p.crc

/-- The level of an instruction's row, and its bytes there: written from the tables of 30_encoding.md. -/
def encode : Instr → Level × List Byte
  | .openLink a => (.operation, [0x01, a])
  | .close => (.operation, [0x02])
  | .enqueue t => (.operation, 0x03 :: writeTemplate t)
  | .setConfig reg value => (.operation, [0x04, reg.zeroExtend 8] ++ writeNat value)
  | .tick now => (.operation, 0x05 :: writeNat now)
  | .rxByte b => (.operation, [0x06, b])
  | .crc16 buf n => (.operation, 0x10 :: (writeBytes buf ++ writeNat n))
  | .stuff x => (.operation, 0x11 :: writeBytes x)
  | .unstuff y => (.operation, 0x12 :: writeBytes y)
  | .encode p => (.operation, 0x13 :: writePacket p)
  | .decode r => (.operation, 0x14 :: writeBytes r)
  | .setLocalAddr v => (.register, [0, v])
  | .setAckTimeout v => (.register, 1 :: writeNat v)
  | .setRespTimeout v => (.register, 2 :: writeNat v)
  | .setMaxRetx v => (.register, [3, v])
  | .setIdleDelay v => (.register, 4 :: writeNat v)
  | .setMaxFrame v => (.register, [5, lowByte v, highByte v])
  | .setWorkerPriority v => (.register, 6 :: writeNat v)
  | .setReserved7 => (.register, [7])
  | .soh => (.stream, [0x01])
  | .eot => (.stream, [0x04])
  | .content b => (.stream, [b])
  | .esc00 => (.content, [0x10, 0x40])
  | .esc01 => (.content, [0x10, 0x41])
  | .esc02 => (.content, [0x10, 0x42])
  | .esc03 => (.content, [0x10, 0x43])
  | .esc04 => (.content, [0x10, 0x44])
  | .esc0A => (.content, [0x10, 0x4A])
  | .esc0D => (.content, [0x10, 0x4D])
  | .esc10 => (.content, [0x10, 0x50])
  | .esc17 => (.content, [0x10, 0x57])
  | .escAny v => (.content, [0x10, v])
  | .shiftDangling => (.content, [0x10])
  | .plain b => (.content, [b])
  | .kindData e p => (.header, [headerByte1 e p .data])
  | .kindReserved e p => (.header, [headerByte1 e p .reserved])
  | .kindPositiveAck e p => (.header, [headerByte1 e p .positiveAck])
  | .kindNegativeAck e p => (.header, [headerByte1 e p .negativeAck])
  | .kindRequest e p => (.header, [headerByte1 e p .request])
  | .kind5 e p => (.header, [headerByte1 e p .undefined5])
  | .kind6 e p => (.header, [headerByte1 e p .undefined6])
  | .kind7 e p => (.header, [headerByte1 e p .undefined7])
  | .formatC h => (.frame, headerBytes h)
  | .formatM h m payload crc => (.frame, messageBody h m payload ++ crcBytes crc)
  | .wire u => (.wire, wireForm u)

/-! ### The opcode table's words -/

/-- The `k` bytes of a table word, the leftmost byte of the table's pattern first (rows CONTENT16: "first byte sent first"; FORMAT_C:
"byte at offset 0 is leftmost"; log 2). -/
def tableBytes : Nat → Nat → List Byte
  | 0, _ => []
  | k + 1, w => BitVec.ofNat 8 (w >>> (8 * k)) :: tableBytes k w

/-- The codes of R123, as numbers. -/
def operationCodes : List Nat := [0x01, 0x02, 0x03, 0x04, 0x05, 0x06, 0x10, 0x11, 0x12, 0x13, 0x14]

/-- The level a bare word of the table is read at (DESIGN CHOICE, log 2: the table numbers rows of seven levels alike). One byte: an
operation code if it is one, else a register number, else a header byte 1; two bytes: an item of content if the first is the shift
marker, else a wire form; more: an unstuffed form. -/
def tableLevel (nbits w : Nat) : Level :=
  if nbits ≤ 8 then
    if operationCodes.contains w then .operation else if w < 8 then .register else .header
  else if nbits ≤ 16 then if w / 256 = 0x10 then .content else .wire
  else .frame

/-- Operand bytes of zeros after a table word: more than any operation reads from zeros (the longest is ENCODE's, 12). -/
def zeroOperands (l : Level) : List Byte :=
  match l with
  | .operation => List.replicate 16 0
  | .register => List.replicate 16 0
  | _ => []

/-- The bytes of a table word as the input port holds them. -/
def tableWordBytes (nbits w : Nat) : List Byte :=
  tableBytes ((nbits + 7) / 8) w ++ zeroOperands (tableLevel nbits w)

/-- The instruction the decoder reads from a table word with operands of zeros. -/
def decodeTableWord (nbits w : Nat) : Option Instr :=
  match decodeAt (tableLevel nbits w) (tableWordBytes nbits w) with
  | .ok (i, _) => some i
  | .error _ => none

end Sys2Proof
end

