-- ==== Sys2Proof/Machine/State.lean ====
section
/-! DEFINITION. The state, as plain data: everything 10_state.md and 20_memory.md give the machine, the model's own input and output
records, and the ways a step can stop. -/

namespace Sys2Proof.Machine
open Sys2Proof

/-- `S.send_state` (R31). -/
inductive SendState where
  | idle | sending | waitingForAck | waitingForResponse
  deriving DecidableEq, Repr, Inhabited

/-- A Link Configuration register that exists: numbers 0 to 6 (R45 to R52, R124). -/
inductive CfgReg where
  | localAddr | ackTimeout | respTimeout | maxRetx | idleDelay | maxFrame | workerPriority
  deriving DecidableEq, Repr, Inhabited

/-- The Link Configuration (R45 to R52); `workerPriority` is stored and read by no rule (R52, log 18). -/
structure LinkConfig where
  localAddr : Byte
  ackTimeout : Nat
  respTimeout : Nat
  maxRetx : BitVec 8
  idleDelay : Nat
  maxFrame : Word16
  workerPriority : Nat
  deriving DecidableEq, Repr, Inhabited

/-- A refusal reason of R352. -/
inductive RefuseReason where
  | notOpen | alreadyOpen | transportInit | badKind | tooLong | queueFull | badReg | badValue | badOp
  deriving DecidableEq, Repr, Inhabited

/-- The seven events of the Event Sink (R360). -/
inductive Event where
  | onPacketSent (p : Packet)
  | onPacketReceived (p : Packet)
  | onAckTimeout (p : Packet)
  | onNackFail (p : Packet)
  | onResponseTimeout (p : Packet)
  | onAckNackObserved (timedOut : Bool) (p : Option Packet)
  | onRawBytesSent (w : List Byte)
  deriving DecidableEq, Repr, Inhabited

/-- One entry of the block's output trace: an event (R368), or a call of the transport (R380). -/
inductive Output where
  | event (e : Event)
  | write (w : List Byte)
  | transportOpen (ok : Bool)
  | transportClose
  deriving DecidableEq, Repr, Inhabited

/-- What an operation returns to its caller (R15, R352; log 16). -/
inductive Reply where
  | accepted
  | refused (r : RefuseReason)
  | word (w : Word16)
  | bytes (x : List Byte)
  | packet (p : Packet)
  | kind (k : KindReading)
  deriving DecidableEq, Repr, Inhabited

/-- The state of one link instance, which exists from OPEN to CLOSE (R30): Engine State (R31 to R41), Link Configuration, the four
queues (R80 to R83), the held reconfigurations (R55, R332). `stalled`: the worker stands still in the middle of a phase, for ever (U9,
U13; log 11). `lastNow` is the model's own (log 12). -/
structure Link where
  stop : Bool
  sendState : SendState
  seqCtr : BitVec 8
  ackToCnt : BitVec 8
  nackCnt : BitVec 8
  requestOpen : Bool
  tReq : Nat
  responseReceived : Bool
  lastAckSeq : Option Byte
  tSend : Nat
  rxBuf : List Byte
  qOut : List Packet
  qData : List Packet
  qAck : List Packet
  qRaw : List (List Byte)
  cfg : LinkConfig
  pending : List (CfgReg × Nat)
  stalled : Bool
  lastNow : Nat
  deriving DecidableEq, Repr, Inhabited

/-- The link's registers when the link does not exist: any value (R30, U12; log 7). -/
opaque Config.freeLink : Nat → Link

/-- A step of the host or of the receive path that falls inside a TICK or a CLOSE (R88, R368; log 9). CLOSE here is its first step
(R327); the second follows the TICK. -/
inductive AgentOp where
  | rxByte (b : Byte)
  | openLink (localAddr : Byte)
  | close
  | enqueue (t : Template)
  | setConfig (reg : BitVec 3) (value : Nat)
  deriving DecidableEq, Repr, Inhabited

/-- The steps of other agents in each gap of a TICK, during its transport write, and between the two steps of a CLOSE (R88, R89,
R250, R327; log 9). -/
structure Gaps where
  beforePhase1 : List AgentOp
  beforePhase2 : List AgentOp
  beforePhase3 : List AgentOp
  duringWrite : List AgentOp
  duringClose : List AgentOp
  deriving DecidableEq, Repr, Inhabited

/-- What the environment does during one operation: does `transport_open()` succeed (R320), does `write` return (U9), which steps of
other agents fall inside it (log 9, log 11). `handlerStall`: `none` if every handler the operation calls returns, `some k` if the
first `k` calls return and the next one never does (U13). -/
structure Env where
  transportOpens : Bool
  writeReturns : Bool
  handlerStall : Option Nat
  gaps : Gaps
  deriving DecidableEq, Repr, Inhabited

/-- One input of the machine: bytes, the level they are read at, and the environment during the operation (log 1). -/
structure Transaction where
  level : Level
  bytes : List Byte
  env : Env
  deriving DecidableEq, Repr, Inhabited

/-- The machine. `linkOpen` is `S.link_open` (R41); `params` are the arguments of R9, which no step writes (log 8); `trace`,
`replies`, `inputs`, `env` are the interface (log 1, log 16); `freeCtr` counts the free values taken (log 6, log 7, log 10). -/
structure State where
  linkOpen : Bool
  link : Link
  params : Params
  trace : List Output
  replies : List Reply
  inputs : List Transaction
  env : Env
  freeCtr : Nat
  deriving DecidableEq, Repr, Inhabited

/-- Why the machine stops. Both are raised by TICK only. -/
inductive Fault where
  /-- A `peek` on an empty `Q_OUT` outside Idle: "never performed" (R14, R272). Only in states no run reaches
  (log 13). Safe. -/
  | peekEmpty
  /-- `Q_ACK` gave WaitingForAck a packet that is no ack: excluded by R58. Only in states no run reaches
  (log 13). Safe. -/
  | notAnAck
  deriving DecidableEq, Repr, Inhabited

/-- Why the machine gives an instruction no meaning. -/
inductive Refusal where
  /-- An instruction with no meaning yet. Safe. -/
  | notModelled (mnemonic : String)
  /-- CRC16 with `n > len(buf)`: outside its domain (R155, U3). Raised by CRC16 (log 14). Safe. -/
  | crcLength
  /-- ENCODE of a packet of a kind with no format (R195, U2). Raised by ENCODE (log 14), and by TICK in states no run
  reaches (log 13). Safe. -/
  | encodeDomain
  /-- A TICK whose `now` is less than the previous one's: outside the domain (U8, log 12). Raised by TICK. Safe. -/
  | clockBackwards
  /-- Bytes that are no operation with its operands, or no form of their level (log 3). Raised by `step`. Safe. -/
  | badTransaction (e : DecodeError)
  deriving DecidableEq, Repr, Inhabited

/-- No step of another agent. -/
def Gaps.none : Gaps :=
  { beforePhase1 := [], beforePhase2 := [], beforePhase3 := [], duringWrite := [], duringClose := [] }

/-- An environment in which every call succeeds and returns and no other agent moves (log 11). -/
def Env.quiet : Env := { transportOpens := true, writeReturns := true, handlerStall := none, gaps := Gaps.none }

/-- The link's registers at power-on: DESIGN CHOICE, the values OPEN writes with 0 for the unspecified ones (log 5; log 22 for a
finite `TIME_W`). -/
def Link.atPowerOn : Link :=
  { stop := false, sendState := .idle, seqCtr := 0, ackToCnt := 0, nackCnt := 0, requestOpen := false, tReq := 0
    responseReceived := false, lastAckSeq := none, tSend := 0, rxBuf := [], qOut := [], qData := [], qAck := [], qRaw := []
    cfg :=
      { localAddr := 0, ackTimeout := 200, respTimeout := 200, maxRetx := 3, idleDelay := 1, maxFrame := 256, workerPriority := 0 }
    pending := [], stalled := false, lastNow := 0 }

/-- The machine at power-on: the *closed* condition, `S.link_open = 0` (R400). "Everything else is then unspecified until OPEN": the
values here are DESIGN CHOICE (log 5; log 8 for `params`); no operation reads them before OPEN writes them (R321). -/
def State.reset : State :=
  { linkOpen := false, link := Link.atPowerOn, params := Config.defaults, trace := [], replies := [], inputs := []
    env := Env.quiet, freeCtr := 0 }

end Sys2Proof.Machine
end

