-- ==== Sys2Proof/Machine/Flags.lean ====
section
/-! DEFINITION. The conditions the rules test: time, idleness, correlation, duplicates, reset replies; the spec's numeric codes. -/

namespace Sys2Proof.Machine
open Sys2Proof

/-! ### Time (R372, R373) -/

/-- A time of `TIME_W` bits (R9, R372). -/
def timeOf (p : Params) (n : Nat) : Nat :=
  match p.timeW with
  | none => n
  | some w => n % 2 ^ w

/-- `now - t`, modulo `2^TIME_W` where the width is finite (R17, R372). -/
def timeSince (p : Params) (now t : Nat) : Nat :=
  match p.timeW with
  | none => now - t
  | some w => (now + (2 ^ w - t % 2 ^ w)) % 2 ^ w

/-- `elapsed(t, T)` is `now - t >= T` (R15, D4). -/
def elapsed (p : Params) (now t limit : Nat) : Bool := decide (limit ≤ timeSince p now t)

/-- `now` is less than the previous TICK's: what the environment guarantees never to give (R372, U8). A finite clock wraps, and then
no such test exists (log 12). -/
def clockBackwards (p : Params) (l : Link) (now : Nat) : Bool := p.timeW.isNone && decide (now < l.lastNow)

/-! ### Conditions on the link -/

/-- `link_idle`, the block's only status output (R331). -/
def linkIdle (l : Link) : Bool := decide (l.sendState = .idle) && l.rxBuf.isEmpty

/-- `inflight`: `S.send_state != Idle and not Q_OUT.empty()` (R261). -/
def inflight (l : Link) : Bool := decide (l.sendState ≠ .idle) && !l.qOut.isEmpty

/-- `correlates(P, H)` (R266). -/
def correlates (p h : Packet) : Bool := !p.fail && decide (p.kind = .data) && decide (p.seq = h.seq)

/-- The response path is taken: a Request in flight and `P` correlates with it (R261). -/
def takesResponsePath (l : Link) (p : Packet) : Bool :=
  match l.qOut with
  | [] => false
  | h :: _ => inflight l && decide (h.kind = .request) && correlates p h

/-- `is_reset_reply(X)` (R268). -/
def isResetReply (prm : Params) (x : Packet) : Bool :=
  match x.msg, x.payload with
  | some m, b :: _ => decide (x.kind = .data) && decide (m.command = prm.resetCmd) && decide (b &&& prm.resetMask ≠ 0)
  | _, _ => false

/-- `P` repeats the last delivered sequence number (R264). -/
def isDuplicate (l : Link) (p : Packet) : Bool := decide (l.lastAckSeq = some p.seq)

/-- "exceeds" is strictly greater (R17): a retry count above `MAX_RETX`. -/
def exceedsMax (l : Link) (count : BitVec 8) : Bool := decide (l.cfg.maxRetx < count)

/-- The bound test of the reassembler, `len(S.rx_buf) + 1 > CFG.MAX_FRAME` (R233): a FramingError (R350). -/
def overBound (l : Link) : Bool := decide (l.cfg.maxFrame.toNat < l.rxBuf.length + 1)

/-- `Q_OUT` is full: `Q_DEPTH != none and Q_OUT.len() = Q_DEPTH` (R322). -/
def isFull {α : Type} (depth : Option Nat) (q : List α) : Bool :=
  match depth with
  | none => false
  | some d => decide (q.length = d)

/-! ### The spec's numeric codes -/

/-- The encoding of `S.send_state` (R31). -/
def sendStateCode : SendState → BitVec 2
  | .idle => 0 | .sending => 1 | .waitingForAck => 2 | .waitingForResponse => 3

/-- The codes of the refusal reasons (R352). -/
def refuseCode : RefuseReason → Nat
  | .notOpen => 1 | .alreadyOpen => 2 | .transportInit => 3 | .badKind => 4 | .tooLong => 5
  | .queueFull => 6 | .badReg => 7 | .badValue => 8 | .badOp => 9

/-- The codes of the events (R360). -/
def eventCode : Event → Nat
  | .onPacketSent _ => 1 | .onPacketReceived _ => 2 | .onAckTimeout _ => 3 | .onNackFail _ => 4
  | .onResponseTimeout _ => 5 | .onAckNackObserved _ _ => 6 | .onRawBytesSent _ => 7

end Sys2Proof.Machine
end

