-- ==== Sys2Proof/Machine/Operands.lean ====
section
/-! DEFINITION. The operand forms: configuration registers and their legal values, packets made from templates, acknowledgements; the
values OPEN writes. -/

namespace Sys2Proof.Machine
open Sys2Proof

/-- The register of a number 0 to 6; 7 is none (R124). -/
def regOf (r : BitVec 3) : Option CfgReg :=
  if r = 0 then some .localAddr else if r = 1 then some .ackTimeout else if r = 2 then some .respTimeout
  else if r = 3 then some .maxRetx else if r = 4 then some .idleDelay else if r = 5 then some .maxFrame
  else if r = 6 then some .workerPriority else none

/-- A value that `TIME_W` bits hold (R333). -/
def legalTime (p : Params) (v : Nat) : Bool :=
  match p.timeW with
  | none => true
  | some w => decide (v < 2 ^ w)

/-- The legal values of each register (R333). -/
def legalValue (p : Params) (r : CfgReg) (v : Nat) : Bool :=
  match r with
  | .localAddr => decide (v ≤ 255)
  | .ackTimeout => legalTime p v
  | .respTimeout => legalTime p v
  | .maxRetx => decide (v ≤ 254)
  | .idleDelay => legalTime p v
  | .maxFrame => decide (12 ≤ v) && decide (v ≤ 65535)
  | .workerPriority => true

/-- `CFG[reg] <- value` (R330). -/
def writeReg (c : LinkConfig) (r : CfgReg) (v : Nat) : LinkConfig :=
  match r with
  | .localAddr => { c with localAddr := BitVec.ofNat 8 v }
  | .ackTimeout => { c with ackTimeout := v }
  | .respTimeout => { c with respTimeout := v }
  | .maxRetx => { c with maxRetx := BitVec.ofNat 8 v }
  | .idleDelay => { c with idleDelay := v }
  | .maxFrame => { c with maxFrame := BitVec.ofNat 16 v }
  | .workerPriority => { c with workerPriority := v }

/-- `PARITY_FN(P)` (R9, D8). -/
def parityOf (p : Params) (x : Packet) : BitVec 2 :=
  match p.parity with
  | .constant v => v
  | .uninterpreted k => Config.parityFn k x

/-- The packet with its derived parity field (R325, R263). -/
def withParity (p : Params) (x : Packet) : Packet := { x with parity := parityOf p x }

/-- The packet ENQUEUE makes of a template and a sequence number (R323, R325); `crc` is computed at ENCODE. -/
def packetOf (p : Params) (seq : Byte) (t : Template) : Packet :=
  withParity p
    { parity := 0, version := t.version, encrypted := t.encrypted, port := t.port, kind := t.kind, seq := seq
      src := t.src, dst := t.dst, msg := some t.msg, payload := t.payload, crc := none, fail := false }

/-- The control packet that answers an inbound packet: positive if its fail flag is clear, negative otherwise (R263). -/
def ackFor (p : Params) (localAddr : Byte) (x : Packet) : Packet :=
  withParity p
    { parity := 0, version := p.protocolVersion, encrypted := false, port := x.port
      kind := if x.fail then .negativeAck else .positiveAck
      seq := x.seq, src := localAddr, dst := x.src, msg := none, payload := [], crc := none, fail := false }

/-- A template's payload is longer than `CFG.MAX_FRAME - 12` (R324). -/
def payloadTooLong (c : LinkConfig) (t : Template) : Bool := decide (c.maxFrame.toNat - 12 < t.payload.length)

/-- The configuration after OPEN (R59), with `WORKER_PRIORITY` given. DESIGN CHOICE: for a finite `TIME_W` too narrow for 200 or 1 the
spec does not say what the time registers hold (R46, R47, R49); here they hold the default unreduced (log 22). -/
def LinkConfig.afterOpen (localAddr : Byte) (workerPriority : Nat) : LinkConfig :=
  { localAddr := localAddr, ackTimeout := 200, respTimeout := 200, maxRetx := 3, idleDelay := 1, maxFrame := 256
    workerPriority := workerPriority }

/-- The link after OPEN (R59), with the three unspecified values given. -/
def Link.afterOpen (localAddr : Byte) (tReq tSend workerPriority : Nat) : Link :=
  { stop := false, sendState := .idle, seqCtr := 0, ackToCnt := 0, nackCnt := 0, requestOpen := false, tReq := tReq
    responseReceived := false, lastAckSeq := none, tSend := tSend, rxBuf := [], qOut := [], qData := [], qAck := [], qRaw := []
    cfg := LinkConfig.afterOpen localAddr workerPriority, pending := [], stalled := false, lastNow := 0 }

end Sys2Proof.Machine
end

