-- ==== Sys2Proof/Machine/Ops.lean ====
section
/-! DEFINITION. The named operations over the state that the meanings share: queue primitives (R14, R84), `fire` and `refuse` (R15,
R368), what the block does at a terminal condition (R375), held reconfigurations (R332). -/

namespace Sys2Proof.Machine
open Sys2Proof

/-! ### Writing the state -/

/-- The machine with its link changed. -/
def State.mapLink (f : Link → Link) (s : State) : State := { s with link := f s.link }

/-- The machine after handing one output outside. -/
def State.emit (o : Output) (s : State) : State := { s with trace := s.trace ++ [o] }

/-- The next handler that is called never returns (U13; log 11). -/
def Env.stalls (v : Env) : Bool := decide (v.handlerStall = some 0)

/-- The environment once one more handler has been called (log 11). -/
def Env.afterCall (v : Env) : Env := { v with handlerStall := v.handlerStall.map (· - 1) }

/-- The worker stands still from here on (U9, U13; log 11). -/
def stall (l : Link) : Link := { l with stalled := true }

/-- `fire E(args)`: appends the event to the output trace and calls the handler (R15, R368). An absent handler changes nothing
(R367); one that never returns stalls the worker (U13). -/
def State.fire (e : Event) (s : State) : State :=
  { s.emit (.event e) with env := s.env.afterCall, link := { s.link with stalled := s.link.stalled || s.env.stalls } }

/-- What the worker does next, unless it stands still (U9, U13). -/
def unlessStalled (f : State → State) (s : State) : State := if s.link.stalled then s else f s

/-- What an operation returns to its caller (log 16). -/
def State.reply (r : Reply) (s : State) : State := { s with replies := s.replies ++ [r] }

/-- `refuse(reason)`: no state change, the reason is reported (R15, R352). -/
def State.refuse (r : RefuseReason) (s : State) : State := s.reply (.refused r)

/-! ### Queues -/

/-- `Q.enq(v)` under `Q_DEPTH`: appended at the tail, or lost if the queue is full (R14, R84). -/
def enq {α : Type} (depth : Option Nat) (q : List α) (v : α) : List α := if isFull depth q then q else q ++ [v]

/-- `pop_head()`: the head of `Q_OUT` removed and both retry counters cleared (R290). -/
def popHead (l : Link) : Link := { l with qOut := l.qOut.tail, ackToCnt := 0, nackCnt := 0 }

/-- `S.send_state <- X`. -/
def goto (x : SendState) (l : Link) : Link := { l with sendState := x }

/-- The entry of a terminal condition, or of a packet's success: pop the head, fire the event with it, go to Idle (R375). -/
def terminate (e : Event) (s : State) : State := unlessStalled (State.mapLink (goto .idle)) ((s.mapLink popHead).fire e)

/-- The head removed with no event (R273, R276, R287). -/
def dropHead (s : State) : State := s.mapLink fun l => goto .idle (popHead l)

/-- The action of reset detection: `S.seq_ctr <- 0 ; S.last_ack_seq <- none` (R268). -/
def resetTrackers (l : Link) : Link := { l with seqCtr := 0, lastAckSeq := none }

/-- Reset detection on a packet (R265, R274). -/
def detectReset (p : Params) (x : Packet) (l : Link) : Link := if isResetReply p x then resetTrackers l else l

/-! ### Configuration -/

/-- Writing one register of the link (R330). -/
def setReg (r : CfgReg) (v : Nat) (l : Link) : Link := { l with cfg := writeReg l.cfg r v }

/-- The held list written in order (R332). -/
def writeAll (c : LinkConfig) (held : List (CfgReg × Nat)) : LinkConfig := held.foldl (fun c rv => writeReg c rv.1 rv.2) c

/-- Held reconfigurations are applied in order, and the list emptied, if the link is idle (R332). -/
def applyHeld (l : Link) : Link := if linkIdle l then { l with cfg := writeAll l.cfg l.pending, pending := [] } else l

/-! ### The parts of an operation -/

/-- The next part of an operation, unless the machine has stopped. -/
def andThen (o : Host.Outcome State Fault Refusal) (f : State → Host.Outcome State Fault Refusal) :
    Host.Outcome State Fault Refusal :=
  match o with
  | .next s => f s
  | .fault r => .fault r
  | .refused r => .refused r

/-- An output that a handler of the host receives (R368). -/
def isEvent : Output → Bool
  | .event _ => true
  | _ => false

end Sys2Proof.Machine
end

