-- ==== Sys2Proof/Machine/Items.lean ====
section
/-! DEFINITION. The rows of the opcode table below the frame: items of stuffed content, values of the kind field, unstuffed forms.
Each is read by the pure unit that reads it in a frame, and the result is returned (log 4). -/

namespace Sys2Proof.Machine
open Sys2Proof

/-- An item of stuffed content, as UNSTUFF reads it (R174). -/
def readItem (item : List Byte) (s : State) : Host.Outcome State Fault Refusal := .next (s.reply (.bytes (unstuff item)))

/-- Row ESC_00: `10 40` stands for 00 (R121, R171, R174). -/
def execEsc00 (s : State) : Host.Outcome State Fault Refusal := readItem [0x10, 0x40] s

/-- Row ESC_01: `10 41` stands for 01 (R121, R171, R174). -/
def execEsc01 (s : State) : Host.Outcome State Fault Refusal := readItem [0x10, 0x41] s

/-- Row ESC_02: `10 42` stands for 02 (R121, R171, R174). -/
def execEsc02 (s : State) : Host.Outcome State Fault Refusal := readItem [0x10, 0x42] s

/-- Row ESC_03: `10 43` stands for 03 (R121, R171, R174). -/
def execEsc03 (s : State) : Host.Outcome State Fault Refusal := readItem [0x10, 0x43] s

/-- Row ESC_04: `10 44` stands for 04 (R121, R171, R174). -/
def execEsc04 (s : State) : Host.Outcome State Fault Refusal := readItem [0x10, 0x44] s

/-- Row ESC_0A: `10 4A` stands for 0A (R121, R171, R174). -/
def execEsc0A (s : State) : Host.Outcome State Fault Refusal := readItem [0x10, 0x4A] s

/-- Row ESC_0D: `10 4D` stands for 0D (R121, R171, R174). -/
def execEsc0D (s : State) : Host.Outcome State Fault Refusal := readItem [0x10, 0x4D] s

/-- Row ESC_10: `10 50` stands for 10 (R121, R171, R174). -/
def execEsc10 (s : State) : Host.Outcome State Fault Refusal := readItem [0x10, 0x50] s

/-- Row ESC_17: `10 57` stands for 17 (R121, R171, R174). -/
def execEsc17 (s : State) : Host.Outcome State Fault Refusal := readItem [0x10, 0x57] s

/-- Row ESC_ANY: a shift marker and any byte `v` give `v XOR 0x40` (R174, R175). -/
def execEscAny (v : Byte) (s : State) : Host.Outcome State Fault Refusal := readItem [0x10, v] s

/-- Row SHIFT_DANGLING: a shift marker as the last content byte is dropped (R175). -/
def execShiftDangling (s : State) : Host.Outcome State Fault Refusal := readItem [0x10] s

/-- Row PLAIN: a byte that is copied (R174). -/
def execPlain (b : Byte) (s : State) : Host.Outcome State Fault Refusal := readItem [b] s

/-- A header byte 1 of a kind, as the codec reads it (R114, R116, R210). -/
def readKind (k : Kind) (encrypted : Bool) (port : BitVec 4) (s : State) : Host.Outcome State Fault Refusal :=
  .next (s.reply (.kind (readKindByte (headerByte1 encrypted port k))))

/-- Row KIND_DATA: Format M, `Q_DATA` (R202, R210). -/
def execKindData (e : Bool) (p : BitVec 4) (s : State) : Host.Outcome State Fault Refusal := readKind .data e p s

/-- Row KIND_RESERVED: Format C, dropped (R205, R210). -/
def execKindReserved (e : Bool) (p : BitVec 4) (s : State) : Host.Outcome State Fault Refusal := readKind .reserved e p s

/-- Row KIND_POSITIVE_ACK: Format C, `Q_ACK` (R205, R210). -/
def execKindPositiveAck (e : Bool) (p : BitVec 4) (s : State) : Host.Outcome State Fault Refusal := readKind .positiveAck e p s

/-- Row KIND_NEGATIVE_ACK: Format C, `Q_ACK` (R205, R210). -/
def execKindNegativeAck (e : Bool) (p : BitVec 4) (s : State) : Host.Outcome State Fault Refusal := readKind .negativeAck e p s

/-- Row KIND_REQUEST: Format M, `Q_DATA` (R202, R210). -/
def execKindRequest (e : Bool) (p : BitVec 4) (s : State) : Host.Outcome State Fault Refusal := readKind .request e p s

/-- Row KIND_5: Format C, dropped (R205, R210). -/
def execKind5 (e : Bool) (p : BitVec 4) (s : State) : Host.Outcome State Fault Refusal := readKind .undefined5 e p s

/-- Row KIND_6: Format C, dropped (R205, R210). -/
def execKind6 (e : Bool) (p : BitVec 4) (s : State) : Host.Outcome State Fault Refusal := readKind .undefined6 e p s

/-- Row KIND_7: Format C, dropped (R205, R210). -/
def execKind7 (e : Bool) (p : BitVec 4) (s : State) : Host.Outcome State Fault Refusal := readKind .undefined7 e p s

/-- An unstuffed form, as DECODE reads it (R201 to R205). -/
def readUnstuffed (u : List Byte) (s : State) : Host.Outcome State Fault Refusal := .next (s.reply (.packet (parsePacket u)))

/-- Row FORMAT_C (R112, R205). -/
def execFormatC (h : Header) (s : State) : Host.Outcome State Fault Refusal := readUnstuffed (headerBytes h) s

/-- Row FORMAT_M (R115, R202, R203). -/
def execFormatM (h : Header) (m : Message) (payload : List Byte) (crc : Word16) (s : State) : Host.Outcome State Fault Refusal :=
  readUnstuffed (messageBody h m payload ++ crcBytes crc) s

end Sys2Proof.Machine
end

