-- ==== Sys2Proof/Machine/Units.lean ====
section
/-! DEFINITION. The five pure function units as operations (R10, R321: never refused, no state): each returns its result to the
caller. -/

namespace Sys2Proof.Machine
open Sys2Proof

/-- CRC16 (R150, R151); `n > len(buf)` is outside its domain (R155, U3). -/
def execCrc16 (buf : List Byte) (n : Nat) (s : State) : Host.Outcome State Fault Refusal :=
  if n ≤ buf.length then .next (s.reply (.word (crc16 buf n))) else .refused .crcLength

/-- STUFF (R171). -/
def execStuff (x : List Byte) (s : State) : Host.Outcome State Fault Refusal := .next (s.reply (.bytes (stuff x)))

/-- UNSTUFF (R174). -/
def execUnstuff (y : List Byte) (s : State) : Host.Outcome State Fault Refusal := .next (s.reply (.bytes (unstuff y)))

/-- ENCODE (R190 to R194); other kinds are outside its domain (R195, U2). -/
def execEncode (p : Packet) (s : State) : Host.Outcome State Fault Refusal :=
  match encodePacket p with
  | some w => .next (s.reply (.bytes w))
  | none => .refused .encodeDomain

/-- DECODE (R200 to R205): "It never refuses and never raises" (log 15 for other operands than RawFrames). -/
def execDecode (r : List Byte) (s : State) : Host.Outcome State Fault Refusal := .next (s.reply (.packet (decodeFrame r)))

end Sys2Proof.Machine
end

