-- ==== Sys2Proof/Machine/Receive.lean ====
section
/-! DEFINITION. The receive path: RX_BYTE (43_reassembler.md), the byte classes of the stream, and a whole wire form. -/

namespace Sys2Proof.Machine
open Sys2Proof

/-- No start marker active: 01 opens a frame, every other byte is discarded (R232). -/
def scanStart (b : Byte) (l : Link) : Link := { l with rxBuf := if b = sohByte then [sohByte] else [] }

/-- RX_BYTE on the link: the bound test, then the end marker, then content, then the scan for a start marker (R231). -/
def reassemble (depth : Option Nat) (b : Byte) (l : Link) : Link :=
  if l.rxBuf.isEmpty then scanStart b l
  else if overBound l then scanStart b l
  else if b = eotByte then { l with qRaw := enq depth l.qRaw (l.rxBuf ++ [eotByte]), rxBuf := [] }
  else { l with rxBuf := l.rxBuf ++ [b] }

/-- RX_BYTE (R231), refused on a link that is not open (R321). -/
def receiveByte (b : Byte) (s : State) : State :=
  if s.linkOpen then s.mapLink (reassemble s.params.qDepth b) else s.refuse .notOpen

/-- A chunk is its bytes in order (R230, R237). -/
def receiveBytes (c : List Byte) (s : State) : State := c.foldl (fun s b => receiveByte b s) s

/-- RX_BYTE (R231). -/
def execRxByte (b : Byte) (s : State) : Host.Outcome State Fault Refusal := .next (receiveByte b s)

/-- Row SOH: the start marker arrives (R232); inside a frame it is content (R235). -/
def execSoh (s : State) : Host.Outcome State Fault Refusal := .next (receiveByte 0x01 s)

/-- Row EOT: the end marker arrives (R234); outside a frame it is noise (R232). -/
def execEot (s : State) : Host.Outcome State Fault Refusal := .next (receiveByte 0x04 s)

/-- Row CONTENT: any other byte arrives (R235); outside a frame it is noise (R232). -/
def execContent (b : Byte) (s : State) : Host.Outcome State Fault Refusal := .next (receiveByte b s)

/-- Row WIRE: a frame's wire form arrives, one RX_BYTE per byte (R117, R230). -/
def execWire (u : List Byte) (s : State) : Host.Outcome State Fault Refusal := .next (receiveBytes (wireForm u) s)

end Sys2Proof.Machine
end

