-- ==== Sys2Proof/Machine/HostOps.lean ====
section
/-! DEFINITION. The host operations OPEN, CLOSE, ENQUEUE, SET_CONFIG (45_host_ops.md), and the steps of other agents that fall inside
a TICK or a CLOSE. -/

namespace Sys2Proof.Machine
open Sys2Proof

/-- OPEN (R320): the link is created with the values of R59; the three unspecified ones are free values (log 6);
a refused one changes nothing (log 20). -/
def openLink (a : Byte) (s : State) : State :=
  if s.linkOpen then s.refuse .alreadyOpen
  else if s.env.transportOpens then
    { s.emit (.transportOpen true) with
      linkOpen := true
      link := Link.afterOpen a (timeOf s.params (Config.freeNat s.freeCtr)) (timeOf s.params (Config.freeNat (s.freeCtr + 1)))
        (Config.freeNat (s.freeCtr + 2))
      freeCtr := s.freeCtr + 3 }.reply .accepted
  else (s.emit (.transportOpen false)).refuse .transportInit

/-- ENQUEUE and SET_CONFIG are refused: the link is closed, or CLOSE has begun (R321). -/
def notAccepting (s : State) : Bool := !s.linkOpen || s.link.stop

/-- The packet enters `Q_OUT` and takes the sequence number (R325). -/
def admitPacket (p : Params) (t : Template) (l : Link) : Link :=
  { l with qOut := enq p.qDepth l.qOut (packetOf p l.seqCtr t), seqCtr := l.seqCtr + 1 }

/-- ENQUEUE (R322): the first check that fails gives the reason. -/
def enqueue (t : Template) (s : State) : State :=
  if notAccepting s then s.refuse .notOpen
  else if !isMessage t.kind then s.refuse .badKind
  else if payloadTooLong s.link.cfg t then s.refuse .tooLong
  else if isFull s.params.qDepth s.link.qOut then s.refuse .queueFull
  else (s.mapLink (admitPacket s.params t)).reply .accepted

/-- The register is written at once on an idle link and held otherwise (R330, R332). -/
def setOrHold (r : CfgReg) (v : Nat) (l : Link) : Link :=
  if linkIdle l then setReg r v l else { l with pending := l.pending ++ [(r, v)] }

/-- SET_CONFIG (R330). -/
def setConfig (reg : BitVec 3) (v : Nat) (s : State) : State :=
  if notAccepting s then s.refuse .notOpen
  else match regOf reg with
    | none => s.refuse .badReg
    | some r =>
      if legalValue s.params r v then (s.mapLink (setOrHold r v)).reply .accepted else s.refuse .badValue

/-- CLOSE step 1: `S.stop <- 1` (R327). -/
def closeBegin (s : State) : State := s.mapLink fun l => { l with stop := true }

/-- CLOSE step 2: the transport is closed and all other state ceases to exist, so its value is free (R30, R327, U12; log 7). -/
def closeFinish (s : State) : State :=
  { s.emit .transportClose with linkOpen := false, link := Config.freeLink s.freeCtr, freeCtr := s.freeCtr + 1 }.reply .accepted

/-- One step of another agent inside an operation (R88; log 9). -/
def agentStep (op : AgentOp) (s : State) : State :=
  match op with
  | .rxByte b => receiveByte b s
  | .openLink a => openLink a s
  | .close => if s.linkOpen then closeBegin s else s.refuse .notOpen
  | .enqueue t => enqueue t s
  | .setConfig reg v => setConfig reg v s

/-- The steps of other agents in one gap, in order (R88). -/
def runAgents (ops : List AgentOp) (s : State) : State := ops.foldl (fun s op => agentStep op s) s

/-- CLOSE step 2 waits for the end of the TICK in progress (R327). When the worker stands still it never comes: the bounded wait goes on
or is given up, by a free value (U10; log 10). -/
def closeEnd (s : State) : State :=
  if s.link.stalled && !Config.closeGivesUp s.freeCtr then { s with freeCtr := s.freeCtr + 1 } else closeFinish s

/-- What is left of a CLOSE once it has begun: the steps that still fall in, then step 2 (R327). -/
def closeRest (s : State) : State := closeEnd (runAgents s.env.gaps.duringClose s)

/-- CLOSE (R327). -/
def close (s : State) : State := if s.linkOpen then closeRest (closeBegin s) else s.refuse .notOpen

/-- OPEN (R320). -/
def execOpen (a : Byte) (s : State) : Host.Outcome State Fault Refusal := .next (openLink a s)

/-- CLOSE (R327). -/
def execClose (s : State) : Host.Outcome State Fault Refusal := .next (close s)

/-- ENQUEUE (R322). -/
def execEnqueue (t : Template) (s : State) : Host.Outcome State Fault Refusal := .next (enqueue t s)

/-- SET_CONFIG (R330). -/
def execSetConfig (reg : BitVec 3) (v : Nat) (s : State) : Host.Outcome State Fault Refusal := .next (setConfig reg v s)

/-- Row SET_CONFIG.LOCAL_ADDR (R45, R330). -/
def execSetLocalAddr (v : Byte) (s : State) : Host.Outcome State Fault Refusal := .next (setConfig 0 v.toNat s)

/-- Row SET_CONFIG.ACK_TIMEOUT (R46, R330). -/
def execSetAckTimeout (v : Nat) (s : State) : Host.Outcome State Fault Refusal := .next (setConfig 1 v s)

/-- Row SET_CONFIG.RESP_TIMEOUT (R47, R330). -/
def execSetRespTimeout (v : Nat) (s : State) : Host.Outcome State Fault Refusal := .next (setConfig 2 v s)

/-- Row SET_CONFIG.MAX_RETX (R48, R330). -/
def execSetMaxRetx (v : Byte) (s : State) : Host.Outcome State Fault Refusal := .next (setConfig 3 v.toNat s)

/-- Row SET_CONFIG.IDLE_DELAY (R49, R330). -/
def execSetIdleDelay (v : Nat) (s : State) : Host.Outcome State Fault Refusal := .next (setConfig 4 v s)

/-- Row SET_CONFIG.MAX_FRAME (R50, R330). -/
def execSetMaxFrame (v : Word16) (s : State) : Host.Outcome State Fault Refusal := .next (setConfig 5 v.toNat s)

/-- Row SET_CONFIG.WORKER_PRIORITY (R52, R330). -/
def execSetWorkerPriority (v : Nat) (s : State) : Host.Outcome State Fault Refusal := .next (setConfig 6 v s)

/-- Row SET_CONFIG.reserved7: refused with `BAD_REG` (R124, R330), whatever the value. -/
def execSetReserved7 (s : State) : Host.Outcome State Fault Refusal := .next (setConfig 7 0 s)

end Sys2Proof.Machine
end

