-- ==== Sys2Proof/Machine/Worker.lean ====
section
/-! DEFINITION. The worker: TICK, its three phases and the transmission state machine (44_state_machine.md). -/

namespace Sys2Proof.Machine
open Sys2Proof

/-! ### Phase 1: drain the raw-frame queue (R255) -/

/-- The queue the packet is sorted into (R210). -/
def classify (depth : Option Nat) (p : Packet) (l : Link) : Link :=
  match queueOf p with
  | some .qData => { l with qData := enq depth l.qData p }
  | some .qAck => { l with qAck := enq depth l.qAck p }
  | none => l

/-- Every raw frame is decoded and classified, oldest first (R255). -/
def drainRaw (depth : Option Nat) (l : Link) : Link :=
  l.qRaw.foldl (fun l r => classify depth (decodeFrame r) l) { l with qRaw := [] }

/-- Phase 1 (R255). -/
def phase1 (s : State) : State := s.mapLink (drainRaw s.params.qDepth)

/-! ### Phase 2: incoming data (R259 to R266) -/

/-- The acknowledgement goes to the tail of `Q_OUT` (R263). -/
def queueAck (prm : Params) (p : Packet) (l : Link) : Link :=
  { l with qOut := enq prm.qDepth l.qOut (ackFor prm l.cfg.localAddr p) }

/-- What delivery writes: the tracker, and for a Request the flag and its time (R264). -/
def recordDelivery (now : Nat) (p : Packet) (l : Link) : Link :=
  if p.kind = .request then { l with lastAckSeq := some p.seq, requestOpen := true, tReq := now }
  else { l with lastAckSeq := some p.seq }

/-- Duplicate test and delivery (R264). -/
def deliver (now : Nat) (p : Packet) (s : State) : State :=
  if isDuplicate s.link p then s else (s.mapLink (recordDelivery now p)).fire (.onPacketReceived p)

/-- The independent path (R262). -/
def independentPath (now : Nat) (p : Packet) (s : State) : State :=
  if p.fail then s.mapLink (queueAck s.params p) else deliver now p (s.mapLink (queueAck s.params p))

/-- The response path (R265). -/
def responsePath (p : Packet) (s : State) : State :=
  (s.mapLink fun l => { detectReset s.params p l with responseReceived := true }).fire (.onPacketReceived p)

/-- One packet taken from `Q_DATA`: the address test, then the path (R260, R261). -/
def handleIncoming (now : Nat) (p : Packet) (s : State) : State :=
  if p.dst = s.link.cfg.localAddr then
    if takesResponsePath s.link p then responsePath p s else independentPath now p s
  else s

/-- Phase 2: at most one packet (R259). -/
def phase2 (now : Nat) (s : State) : State :=
  match s.link.qData with
  | [] => s
  | p :: rest => handleIncoming now p (s.mapLink fun l => { l with qData := rest })

/-! ### Phase 3: the state machine (R270 to R292) -/

/-- Idle (R271). -/
def idleAction (s : State) : State := if s.link.qOut.isEmpty then s else s.mapLink (goto .sending)

/-- The stale test (R273). -/
def isStale (now : Nat) (s : State) : Bool :=
  s.link.requestOpen && elapsed s.params now s.link.tReq s.link.cfg.respTimeout

/-- The head with its CRC computed, in its place in `Q_OUT` (R192, D53). -/
def stampHead (l : Link) : Link :=
  match l.qOut with
  | [] => l
  | h :: q => { l with qOut := withCrc h :: q }

/-- The answer to a peer's Request has been written: pop, event, flag cleared, Idle (R276). -/
def answerSent (h : Packet) (s : State) : State :=
  unlessStalled (State.mapLink fun l => goto .idle { l with requestOpen := false }) ((s.mapLink popHead).fire (.onPacketSent h))

/-- Disposal after the write (R276, R277). -/
def dispose (now : Nat) (h : Packet) (s : State) : State :=
  if isControl h.kind then dropHead s
  else if s.link.requestOpen then answerSent h s
  else s.mapLink fun l => { l with tSend := now, sendState := .waitingForAck }

/-- `tx_write(w)`: the CRC stands in the head (R192), the bytes are handed over (R275). -/
def writeHead (w : List Byte) (s : State) : State := (s.mapLink stampHead).emit (.write w)

/-- The write and what follows it: the steps of other agents fall during the write, the event after it (R275 to R277). A write that
never returns stalls the worker, and the other agents' steps go on (U9, R425; log 11). -/
def transmit (now : Nat) (h : Packet) (w : List Byte) (s : State) : State :=
  if s.env.writeReturns then
    unlessStalled (dispose now h) ((runAgents s.env.gaps.duringWrite (writeHead w s)).fire (.onRawBytesSent w))
  else runAgents s.env.gaps.duringWrite ((writeHead w s).mapLink stall)

/-- Sending, with the head `h`: stale test, reset detection, write, disposal (R272 to R277). -/
def sendingAction (now : Nat) (h : Packet) (s : State) : Host.Outcome State Fault Refusal :=
  if isStale now s then .next (dropHead (s.mapLink fun l => { l with requestOpen := false }))
  else match encodePacket h with
    | none => .refused .encodeDomain
    | some w => .next (transmit now (withCrc h) w (s.mapLink (detectReset s.params h)))

/-- One entry leaves `Q_ACK` and is observed: `A <- Q_ACK.deq()`, `fire onAckNackObserved(false, A)` (R280). -/
def takeAck (a : Packet) (rest : List Packet) (s : State) : State :=
  (s.mapLink fun l => { l with qAck := rest }).fire (.onAckNackObserved false (some a))

/-- The scan of `Q_ACK` for sequence number `seq`: entries are taken up to the first that matches, which is found (R280). -/
def scanAcks (seq : Byte) : List Packet → State → Option Packet × State
  | [], s => (none, s)
  | a :: rest, s =>
    if (takeAck a rest s).link.stalled then (none, takeAck a rest s)
    else if a.seq = seq then (some a, takeAck a rest s)
    else scanAcks seq rest (takeAck a rest s)

/-- A matching PositiveAck (R281). -/
def onPositiveAck (h : Packet) (s : State) : State :=
  if h.kind = .request then s.mapLink fun l => { l with ackToCnt := 0, nackCnt := 0, sendState := .waitingForResponse }
  else terminate (.onPacketSent h) s

/-- The counters after a matching NegativeAck (R282). -/
def countNack (l : Link) : Link := { l with ackToCnt := 0, nackCnt := l.nackCnt + 1 }

/-- A matching NegativeAck (R282). -/
def onNegativeAck (h : Packet) (s : State) : State :=
  if exceedsMax s.link (s.link.nackCnt + 1) then terminate (.onNackFail h) (s.mapLink countNack)
  else s.mapLink fun l => goto .sending (countNack l)

/-- The counter after an ack timeout (R283). -/
def countTimeout (l : Link) : Link := { l with ackToCnt := l.ackToCnt + 1 }

/-- An ack timeout is counted, and the packet sent again or given up (R283). -/
def retryOrGiveUp (h : Packet) (s : State) : State :=
  if exceedsMax s.link (s.link.ackToCnt + 1) then terminate (.onAckTimeout h) (s.mapLink countTimeout)
  else s.mapLink fun l => goto .sending (countTimeout l)

/-- An ack timeout (R283). -/
def onAckTimeout (h : Packet) (s : State) : State := unlessStalled (retryOrGiveUp h) (s.fire (.onAckNackObserved true none))

/-- What follows the scan: the matching ack, or the timeout test (R281 to R284). -/
def afterScan (now : Nat) (h : Packet) (found : Option Packet) (s : State) : Host.Outcome State Fault Refusal :=
  match found with
  | some a =>
    if a.kind = .positiveAck then .next (onPositiveAck h s)
    else if a.kind = .negativeAck then .next (onNegativeAck h s)
    else .fault .notAnAck
  | none => if elapsed s.params now s.link.tSend s.link.cfg.ackTimeout then .next (onAckTimeout h s) else .next s

/-- The scan and what follows it, unless the worker stands still (R280). -/
def handleAcks (now : Nat) (h : Packet) (scan : Option Packet × State) : Host.Outcome State Fault Refusal :=
  if scan.2.link.stalled then .next scan.2 else afterScan now h scan.1 scan.2

/-- WaitingForAck, with the head `h` (R280 to R284). -/
def waitAckAction (now : Nat) (h : Packet) (s : State) : Host.Outcome State Fault Refusal :=
  handleAcks now h (scanAcks h.seq s.link.qAck s)

/-- WaitingForResponse, with the head `h` (R286 to R288). -/
def waitResponseAction (now : Nat) (h : Packet) (s : State) : State :=
  if s.link.responseReceived then dropHead (s.mapLink fun l => { l with responseReceived := false })
  else if elapsed s.params now s.link.tSend s.link.cfg.respTimeout then terminate (.onResponseTimeout h) s
  else s

/-- `H <- Q_OUT.peek()`; never performed on an empty queue (R14, R272). -/
def withHead (s : State) (f : Packet → Host.Outcome State Fault Refusal) : Host.Outcome State Fault Refusal :=
  match s.link.qOut with
  | [] => .fault .peekEmpty
  | h :: _ => f h

/-- Phase 3: one action of the state machine (R270). -/
def phase3 (now : Nat) (s : State) : Host.Outcome State Fault Refusal :=
  match s.link.sendState with
  | .idle => .next (idleAction s)
  | .sending => withHead s fun h => sendingAction now h s
  | .waitingForAck => withHead s fun h => waitAckAction now h s
  | .waitingForResponse => withHead s fun h => .next (waitResponseAction now h s)

/-! ### One TICK (R250) -/

/-- The start of a TICK that runs: the time is noted (log 12), and held reconfigurations are applied if the link is idle (R332). -/
def startTick (now : Nat) (s : State) : State := s.mapLink fun l => applyHeld { l with lastNow := now }

/-- A CLOSE that began inside this TICK goes on now that the TICK has ended (R327; log 10). -/
def endTick (s : State) : State := if s.link.stop then closeRest s else s

/-- Phase 3, unless the worker stands still since phase 2, and the end of the TICK. -/
def tickPhase3 (now : Nat) (s : State) : Host.Outcome State Fault Refusal :=
  if s.link.stalled then .next (endTick s) else andThen (phase3 now s) fun s' => .next (endTick s')

/-- The steps of other agents between phase 2 and phase 3, then phase 3 (R88). -/
def afterPhase2 (now : Nat) (s : State) : Host.Outcome State Fault Refusal :=
  tickPhase3 now (runAgents s.env.gaps.beforePhase3 s)

/-- A TICK that runs: the start, phase 1, phase 2, phase 3, with the steps of other agents between them (R88, R250). -/
def runTick (now : Nat) (s : State) : Host.Outcome State Fault Refusal :=
  afterPhase2 now
    (phase2 now (runAgents s.env.gaps.beforePhase2 (phase1 (runAgents s.env.gaps.beforePhase1 (startTick now s)))))

/-- TICK (R250): refused on a link that is not open (R321), empty once CLOSE has begun (R251), never made by a worker that stands still
(U9, U13), outside its domain when the clock runs backwards (U8). -/
def execTick (now : Nat) (s : State) : Host.Outcome State Fault Refusal :=
  if !s.linkOpen then .next (s.refuse .notOpen)
  else if s.link.stop || s.link.stalled then .next s
  else if clockBackwards s.params s.link now then .refused .clockBackwards
  else runTick (timeOf s.params now) s

end Sys2Proof.Machine
end

