-- ==== Sys2Proof/Machine/Dispatch.lean ====
section
/-! DEFINITION. The meaning of every instruction: one call per row of spec/opcode_table.json. -/

namespace Sys2Proof.Machine
open Sys2Proof

def exec (i : Instr) (s : State) : Host.Outcome State Fault Refusal :=
  match i with
  | .openLink a => Sys2Proof.Machine.execOpen a s
  | .close => Sys2Proof.Machine.execClose s
  | .enqueue t => Sys2Proof.Machine.execEnqueue t s
  | .setConfig reg v => Sys2Proof.Machine.execSetConfig reg v s
  | .tick now => Sys2Proof.Machine.execTick now s
  | .rxByte b => Sys2Proof.Machine.execRxByte b s
  | .crc16 buf n => Sys2Proof.Machine.execCrc16 buf n s
  | .stuff x => Sys2Proof.Machine.execStuff x s
  | .unstuff y => Sys2Proof.Machine.execUnstuff y s
  | .encode p => Sys2Proof.Machine.execEncode p s
  | .decode r => Sys2Proof.Machine.execDecode r s
  | .setLocalAddr v => Sys2Proof.Machine.execSetLocalAddr v s
  | .setAckTimeout v => Sys2Proof.Machine.execSetAckTimeout v s
  | .setRespTimeout v => Sys2Proof.Machine.execSetRespTimeout v s
  | .setMaxRetx v => Sys2Proof.Machine.execSetMaxRetx v s
  | .setIdleDelay v => Sys2Proof.Machine.execSetIdleDelay v s
  | .setMaxFrame v => Sys2Proof.Machine.execSetMaxFrame v s
  | .setWorkerPriority v => Sys2Proof.Machine.execSetWorkerPriority v s
  | .setReserved7 => Sys2Proof.Machine.execSetReserved7 s
  | .soh => Sys2Proof.Machine.execSoh s
  | .eot => Sys2Proof.Machine.execEot s
  | .content b => Sys2Proof.Machine.execContent b s
  | .esc00 => Sys2Proof.Machine.execEsc00 s
  | .esc01 => Sys2Proof.Machine.execEsc01 s
  | .esc02 => Sys2Proof.Machine.execEsc02 s
  | .esc03 => Sys2Proof.Machine.execEsc03 s
  | .esc04 => Sys2Proof.Machine.execEsc04 s
  | .esc0A => Sys2Proof.Machine.execEsc0A s
  | .esc0D => Sys2Proof.Machine.execEsc0D s
  | .esc10 => Sys2Proof.Machine.execEsc10 s
  | .esc17 => Sys2Proof.Machine.execEsc17 s
  | .escAny v => Sys2Proof.Machine.execEscAny v s
  | .shiftDangling => Sys2Proof.Machine.execShiftDangling s
  | .plain b => Sys2Proof.Machine.execPlain b s
  | .kindData e p => Sys2Proof.Machine.execKindData e p s
  | .kindReserved e p => Sys2Proof.Machine.execKindReserved e p s
  | .kindPositiveAck e p => Sys2Proof.Machine.execKindPositiveAck e p s
  | .kindNegativeAck e p => Sys2Proof.Machine.execKindNegativeAck e p s
  | .kindRequest e p => Sys2Proof.Machine.execKindRequest e p s
  | .kind5 e p => Sys2Proof.Machine.execKind5 e p s
  | .kind6 e p => Sys2Proof.Machine.execKind6 e p s
  | .kind7 e p => Sys2Proof.Machine.execKind7 e p s
  | .formatC h => Sys2Proof.Machine.execFormatC h s
  | .formatM h m payload crc => Sys2Proof.Machine.execFormatM h m payload crc s
  | .wire u => Sys2Proof.Machine.execWire u s

end Sys2Proof.Machine
end

