-- ==== Sys2Proof/Machine/Fetch.lean ====
section
/-! DEFINITION. Taking the next transaction from the input port, and what becomes of bytes that are no instruction (log 1). -/

namespace Sys2Proof.Machine
open Sys2Proof

/-- The first transaction leaves the port, and its environment holds during the operation (log 1, log 11). -/
def takeInput (t : Transaction) (rest : List Transaction) (s : State) : State := { s with inputs := rest, env := t.env }

/-- Bytes that are no instruction: an unknown operation code is refused with `BAD_OP` (R123, R352); the rest is the model's layout
and has no meaning (log 3). -/
def refuseBytes (e : DecodeError) (s : State) : Host.Outcome State Fault Refusal :=
  match e with
  | .badOp _ => .next (s.refuse .badOp)
  | .truncated => .refused (.badTransaction .truncated)
  | .badOperand => .refused (.badTransaction .badOperand)

/-- A table word as a transaction in a quiet environment (log 2). -/
def tableTransaction (nbits w : Nat) : Transaction :=
  { level := tableLevel nbits w, bytes := tableWordBytes nbits w, env := Env.quiet }

/-- A transaction put first in the port. -/
def State.placeFirst (t : Transaction) (s : State) : State := { s with inputs := t :: s.inputs }

/-- One transaction: decoded and run (bytes after the instruction are not read, log 3). -/
def runTransaction (t : Transaction) (s : State) : Host.Outcome State Fault Refusal :=
  match decodeAt t.level t.bytes with
  | .ok (i, _) => exec i s
  | .error e => refuseBytes e s

/-- One machine step: the next transaction, or nothing while the port is empty (R385, log 1). -/
def stepOnce (s : State) : Host.Outcome State Fault Refusal :=
  match s.inputs with
  | [] => .next s
  | t :: rest => runTransaction t (takeInput t rest s)

end Sys2Proof.Machine
end

