-- ==== Sys2Proof/Machine/Step.lean ====
section
/-! DEFINITION. One step of the machine, and where the host places an instruction. -/

namespace Sys2Proof.Machine
open Sys2Proof

/-- One step: the next transaction of the input port is decoded and run (log 1). -/
def step (s : State) : Host.Outcome State Fault Refusal := stepOnce s

/-- `s` with a table word first in the input port, so that the next step runs it (log 1, log 2). -/
def State.withFetchWord (s : State) (nbits w : Nat) : State := s.placeFirst (tableTransaction nbits w)

end Sys2Proof.Machine
end

