-- ==== Sys2Proof/Safety.lean ====
section
/-! DEFINITION. What counts as a good state: the invariants 10_state.md states (R40, R57, R58, the legal values of R33, R34, R48, R50),
in the terms the statements use; and the error classes of R350. -/

namespace Sys2Proof.Safety
open Sys2Proof Sys2Proof.Machine

/-- What `Q_OUT` may hold: a packet ENCODE is defined on, with `fail = 0` (R58, R195). -/
def outgoing (p : Packet) : Bool := !p.fail && (unstuffed p).isSome

/-- The invariants of a link that exists. -/
structure LinkInv (p : Params) (l : Link) : Prop where
  /-- "When non-empty, `S.rx_buf[0] = 0x01` and no byte of `S.rx_buf` equals 0x04" (R40) -/
  rxForm : l.rxBuf = [] ∨ (l.rxBuf.head? = some sohByte ∧ eotByte ∉ l.rxBuf)
  /-- the buffer is bounded by `MAX_FRAME` (R40, R233) -/
  rxBound : l.rxBuf.length ≤ l.cfg.maxFrame.toNat
  /-- outside Idle there is a packet in flight (R57), unless the worker stands still in the middle of a phase (log 11) -/
  singleFlight : l.stalled = false → l.sendState ≠ .idle → l.qOut ≠ []
  /-- only a message kind is waited on (R276) -/
  awaitsMessage : l.stalled = false → l.sendState = .waitingForAck → ∀ h ∈ l.qOut.head?, isMessage h.kind = true
  /-- the head is a Request in WaitingForResponse (R286) -/
  awaitsRequest : l.stalled = false → l.sendState = .waitingForResponse → ∀ h ∈ l.qOut.head?, h.kind = .request
  /-- `Q_OUT` (R58) -/
  outKinds : ∀ x ∈ l.qOut, outgoing x = true
  /-- `Q_ACK` (R58) -/
  ackKinds : ∀ x ∈ l.qAck, isControl x.kind = true ∧ x.fail = false
  /-- `Q_DATA` (R58) -/
  dataKinds : ∀ x ∈ l.qData, x.fail = true ∨ isMessage x.kind = true
  /-- `Q_RAW` holds only RawFrames (R58, R43) -/
  rawForms : ∀ r ∈ l.qRaw, isRawFrame r = true
  /-- between packets both retry counters are 0 (R290) -/
  idleCounters : l.sendState = .idle → l.ackToCnt = 0 ∧ l.nackCnt = 0
  /-- the retry counters stay within `MAX_RETX` (R33, R34, R290) -/
  counters : l.ackToCnt ≤ l.cfg.maxRetx ∧ l.nackCnt ≤ l.cfg.maxRetx
  /-- `MAX_RETX` is 0 to 254 (R48) and `MAX_FRAME` at least 12 (R50) -/
  cfgLegal : l.cfg.maxRetx.toNat ≤ 254 ∧ 12 ≤ l.cfg.maxFrame.toNat
  /-- only legal values are held (R330, R333) -/
  pendingLegal : ∀ rv ∈ l.pending, legalValue p rv.1 rv.2 = true
  /-- no queue is longer than a finite `Q_DEPTH` (R84) -/
  depth : ∀ d ∈ p.qDepth, l.qOut.length ≤ d ∧ l.qData.length ≤ d ∧ l.qAck.length ≤ d ∧ l.qRaw.length ≤ d

/-- The invariant of the machine: it speaks of a link that exists (R30). -/
def Inv (s : State) : Prop := s.linkOpen = true → LinkInv s.params s.link

/-- The life-cycle condition *open* (R378). -/
def running (s : State) : Bool := s.linkOpen && !s.link.stop

/-- The environment keeps the standing requirements of R406 and R381 during this operation: the transport's write and the handlers
return. -/
def returns (s : State) : Bool := s.env.writeReturns && s.env.handlerStall.isNone

/-- The worker runs: it does not stand still for ever in an earlier TICK (U9, U13). -/
def ready (s : State) : Bool := !s.link.stalled

/-- No step of another agent falls inside this operation (log 9). -/
def undisturbed (s : State) : Bool := decide (s.env.gaps = Gaps.none)

/-- The environment's clock guarantee for this TICK (R372). -/
def clockForward (s : State) (now : Nat) : Bool := !clockBackwards s.params s.link now

/-- A TICK that runs by itself: the link open, the worker ready, the environment returning, no other agent in between, the clock not
going back. -/
def quietTick (s : State) (now : Nat) : Bool := running s && ready s && returns s && undisturbed s && clockForward s now

/-- A quiet TICK with nothing received to handle: phases 1 and 2 have nothing to do (R255, R259). -/
def plainTick (s : State) (now : Nat) : Bool := quietTick s now && s.link.qRaw.isEmpty && s.link.qData.isEmpty

/-- A *valid* Packet (R207): of a kind with a format, undamaged, with the fields its kind has and the CRC ENCODE computes. -/
def validPacket (p : Packet) : Bool :=
  !p.fail &&
  if isMessage p.kind then
    match p.msg with
    | some m => decide (p.payload.length ≤ 65535) && decide (p.crc = some (messageCrc p.toHeader m p.payload))
    | none => false
  else isControl p.kind && p.msg.isNone && p.payload.isEmpty && p.crc.isNone

/-- A template ENQUEUE accepts, but for a full queue: a message kind, and a payload of at most `MAX_FRAME - 12` (R322). -/
def acceptable (c : LinkConfig) (t : Template) : Bool := isMessage t.kind && !payloadTooLong c t

/-- The five error classes (R350). -/
inductive ErrorClass where
  /-- the reassembler's bound fired (R233) -/
  | framingError
  /-- the fail flag of a decoded packet (R203, R204) -/
  | checksumError
  /-- an ack or a response was not observed in time (R283, R288) -/
  | protocolTimeout
  /-- a retry counter exceeded `MAX_RETX` (R282, R283) -/
  | retryExhausted
  /-- the transport failed to open (R320) -/
  | transportInitError
  deriving DecidableEq, Repr

/-- The codes of the error classes (R350). -/
def errorClassCode : ErrorClass → Nat
  | .framingError => 1 | .checksumError => 2 | .protocolTimeout => 3 | .retryExhausted => 4 | .transportInitError => 5

/-- A byte that makes the reassembler discard a partial frame: a FramingError, silent (R233, R350). -/
def raisesFramingError (l : Link) : Bool := !l.rxBuf.isEmpty && overBound l

/-- The error classes an event reports: R350's table names `onAckTimeout` under class 3 and under class 4. -/
def errorsOfEvent : Event → List ErrorClass
  | .onAckTimeout _ => [.protocolTimeout, .retryExhausted]
  | .onNackFail _ => [.retryExhausted]
  | .onResponseTimeout _ => [.protocolTimeout]
  | .onAckNackObserved true _ => [.protocolTimeout]
  | .onAckNackObserved false _ => []
  | .onPacketSent _ => []
  | .onPacketReceived _ => []
  | .onRawBytesSent _ => []

end Sys2Proof.Safety
end

