-- ==== Sys2Proof/Certificates/Slice0/Obligations.lean ====
section
/-! DEFINITION. The statements for the provers, from the numbered rules of spec/. -/

open Sys2Proof Sys2Proof.Machine Sys2Proof.Safety

/-! ### The pure units -/

/-- R151: the register starts at 0xFFFF, each byte updates it through the table, and CRC16 returns it, for every `n <= len(buf)`. -/
def Obligations.CrcUpdatesByTable : Prop :=
  ∀ (buf : List Byte) (s : State),
    crc16 buf 0 = 0xFFFF ∧
    (∀ (n : Nat) (h : n < buf.length),
      crc16 buf (n + 1) =
        (crc16 buf n >>> 8) ^^^ crcTable.getD ((crc16 buf n ^^^ (buf[n]).zeroExtend 16) &&& 0x00FF).toNat 0) ∧
    ∀ n, n ≤ buf.length → exec (.crc16 buf n) s = .next (s.reply (.word (crc16 buf n)))

/-- R154: data followed by its own CRC, low byte first, has CRC 0; so has every frame of a message kind; the other byte order does
not do in general. -/
def Obligations.CrcSelfCheck : Prop :=
  (∀ m : List Byte, crc16 (m ++ [lowByte (crc16 m m.length), highByte (crc16 m m.length)]) (m.length + 2) = 0) ∧
  (∀ (p : Packet) (u : List Byte), isMessage p.kind = true → unstuffed p = some u → crc16 u u.length = 0) ∧
  ∃ m : List Byte, crc16 (m ++ [highByte (crc16 m m.length), lowByte (crc16 m m.length)]) (m.length + 2) ≠ 0

/-- The table-driven CRC is the bit-serial one (R153, which the spec derives from its table of general knowledge; log 17). -/
def Obligations.CrcTableFormEqualsBitSerialForm : Prop :=
  ∀ buf : List Byte,
    crc16 buf buf.length = buf.foldl (fun c b => crcEightSteps (c ^^^ b.zeroExtend 16)) 0xFFFF

/-- R171: STUFF replaces each of the nine reserved bytes `b` by `10, b XOR 40` and copies every other byte. -/
def Obligations.StuffEscapesReservedBytes : Prop :=
  ∀ (x : List Byte) (s : State),
    exec (.stuff x) s = .next (s.reply (.bytes (stuff x))) ∧ stuff [] = [] ∧
    ∀ (b : Byte) (y : List Byte),
      stuff (b :: y) =
        (if b ∈ ([0x00, 0x01, 0x02, 0x03, 0x04, 0x0A, 0x0D, 0x10, 0x17] : List Byte) then [0x10, b ^^^ 0x40] else [b]) ++ stuff y

/-- R174: UNSTUFF makes one byte of a shift marker and the byte after it, whatever that is; drops a dangling marker; copies the
rest. -/
def Obligations.UnstuffConsumesEscapes : Prop :=
  ∀ (x : List Byte) (s : State),
    exec (.unstuff x) s = .next (s.reply (.bytes (unstuff x))) ∧
    unstuff [] = [] ∧ unstuff [0x10] = [] ∧
    (∀ (v : Byte) (y : List Byte), unstuff (0x10 :: v :: y) = (v ^^^ 0x40) :: unstuff y) ∧
    ∀ (b : Byte) (y : List Byte), b ≠ 0x10 → unstuff (b :: y) = b :: unstuff y

/-- R176: UNSTUFF undoes STUFF on every byte sequence; the converse holds on the image of STUFF only. -/
def Obligations.UnstuffUndoesStuff : Prop :=
  (∀ x : List Byte, unstuff (stuff x) = x) ∧
  (∀ y : List Byte, stuff (unstuff y) = y ↔ ∃ x, y = stuff x) ∧
  unstuff [0x01] = [0x01] ∧ stuff [0x01] = [0x10, 0x41] ∧ unstuff [0x10, 0x41] = [0x01]

/-- The properties R172 derives: length, no reserved byte but 10, every 10 before an escape code, byte by byte. -/
def Obligations.StuffedContentHasNoDelimiter : Prop :=
  (∀ x : List Byte, (stuff x).length = x.length + (x.filter isReserved).length) ∧
  (∀ (x : List Byte) (b : Byte), b ∈ stuff x → isReserved b = true → b = 0x10) ∧
  (∀ x : List Byte, (0x01 : Byte) ∉ stuff x ∧ (0x04 : Byte) ∉ stuff x ∧ (stuff x).getLast? ≠ some 0x10) ∧
  (∀ (x before after : List Byte), stuff x = before ++ [0x10] ++ after → ∃ c ∈ escapeCodes, after.head? = some c) ∧
  ∀ x y : List Byte, stuff (x ++ y) = stuff x ++ stuff y

/-- R191, R192, R194: ENCODE of a message packet writes header, command, parameter and length low byte first, payload, CRC, all of it
stuffed between 01 and 04. -/
def Obligations.EncodeWritesMessageFrames : Prop :=
  ∀ (p : Packet) (m : Message) (s : State),
    isMessage p.kind = true → p.msg = some m → p.payload.length ≤ 65535 →
    let n := p.payload.length
    let body : List Byte :=
      ([ (p.parity.zeroExtend 8 <<< 6) ||| p.version.zeroExtend 8,
        ((BitVec.ofBool p.encrypted).zeroExtend 8 <<< 7) ||| (p.port.zeroExtend 8 <<< 3) ||| (kindCode p.kind).zeroExtend 8,
        p.seq, p.src, p.dst, m.command, m.parameter.extractLsb' 0 8, m.parameter.extractLsb' 8 8,
        BitVec.ofNat 8 n, BitVec.ofNat 8 (n / 256) ] : List Byte) ++ p.payload
    let k := crc16 body (10 + n)
    exec (.encode p) s =
      .next (s.reply (.bytes (0x01 :: stuff (body ++ [k.extractLsb' 0 8, k.extractLsb' 8 8]) ++ [0x04])))

/-- R193: ENCODE of a control packet writes the five header bytes and no more, stuffed between the delimiters. -/
def Obligations.EncodeWritesControlFrames : Prop :=
  ∀ (p : Packet) (s : State), isControl p.kind = true →
    exec (.encode p) s =
      .next (s.reply (.bytes (0x01 :: stuff
        [ (p.parity.zeroExtend 8 <<< 6) ||| p.version.zeroExtend 8,
          ((BitVec.ofBool p.encrypted).zeroExtend 8 <<< 7) ||| (p.port.zeroExtend 8 <<< 3) ||| (kindCode p.kind).zeroExtend 8,
          p.seq, p.src, p.dst ] ++ [0x04])))

/-- Operations outside the domain the spec gives them are refused by name: CRC16 with `n > len(buf)` (U3), ENCODE of a kind with no
format (U2), a TICK whose clock runs backwards (U8). The names are the model's (log 12, log 14). No Data or Request packet is outside
ENCODE's domain: one with no message, or with a payload longer than the length field can hold, is written like any other, with a free
value for what is missing (the model's choice, log 14). -/
def Obligations.OutsideTheDomainIsRefused : Prop :=
  (∀ (buf : List Byte) (n : Nat) (s : State), buf.length < n → exec (.crc16 buf n) s = .refused .crcLength) ∧
  (∀ (p : Packet) (s : State), isMessage p.kind = false → isControl p.kind = false →
    exec (.encode p) s = .refused .encodeDomain) ∧
  (∀ (now : Nat) (s : State), running s = true → s.link.stalled = false → s.params.timeW = none → now < s.link.lastNow →
    exec (.tick now) s = .refused .clockBackwards) ∧
  ∀ (p : Packet), isMessage p.kind = true →
    ∃ (m : Message) (len : Word16),
      (∀ m', p.msg = some m' → m = m') ∧ (p.payload.length ≤ 65535 → len.toNat = p.payload.length) ∧
      ∀ s : State,
        let body := headerBytes p.toHeader ++
          [m.command, m.parameter.extractLsb' 0 8, m.parameter.extractLsb' 8 8, len.extractLsb' 0 8, len.extractLsb' 8 8] ++ p.payload
        let k := crc16 body body.length
        exec (.encode p) s =
          .next (s.reply (.bytes (0x01 :: stuff (body ++ [k.extractLsb' 0 8, k.extractLsb' 8 8]) ++ [0x04])))

/-- What DECODE makes of any frame; it never refuses (R201, R202, R203, R205; that absent bytes read as 0, that a short message frame
fails, the length check and the ignored tail are the spec's decisions D12 to D15). That bytes which are no RawFrame are read by the
same formula is the model's choice (log 15). -/
def Obligations.DecodeReadsFrames : Prop :=
  ∀ (r : List Byte) (s : State),
    let u := unstuff ((r.drop 1).dropLast)
    let at' := fun i => u.getD i 0
    ∃ p : Packet, exec (.decode r) s = .next (s.reply (.packet p)) ∧
      p.parity = (at' 0).extractLsb' 6 2 ∧ p.version = (at' 0).extractLsb' 0 6 ∧
      p.encrypted = (at' 1).getLsbD 7 ∧ p.port = (at' 1).extractLsb' 3 4 ∧ kindCode p.kind = (at' 1).extractLsb' 0 3 ∧
      p.seq = at' 2 ∧ p.src = at' 3 ∧ p.dst = at' 4 ∧ (u.length < 5 → p.fail = true) ∧
      (isMessage p.kind = true →
        p.msg = some { command := at' 5, parameter := (at' 7).zeroExtend 16 <<< 8 ||| (at' 6).zeroExtend 16 } ∧
        (u.length < 12 → p.fail = true ∧ p.payload = [] ∧
          p.crc = some ((at' 11).zeroExtend 16 <<< 8 ||| (at' 10).zeroExtend 16)) ∧
        (12 ≤ u.length →
          p.payload = (u.take (u.length - 2)).drop 10 ∧
          p.crc = some ((at' (u.length - 1)).zeroExtend 16 <<< 8 ||| (at' (u.length - 2)).zeroExtend 16) ∧
          (p.fail = true ↔ crc16 u u.length ≠ 0 ∨
            ((at' 9).zeroExtend 16 <<< 8 ||| (at' 8).zeroExtend 16 : Word16).toNat ≠ u.length - 12))) ∧
      (isMessage p.kind = false → p.msg = none ∧ p.payload = [] ∧ p.crc = none ∧ (p.fail = true ↔ u.length < 5))

/-- R207: DECODE gives back, field for field, every valid packet that ENCODE writes. -/
def Obligations.DecodeInvertsEncode : Prop :=
  ∀ (p : Packet) (s : State), validPacket p = true →
    ∃ w, exec (.encode p) s = .next (s.reply (.bytes w)) ∧ ∀ s' : State, exec (.decode w) s' = .next (s'.reply (.packet p))

/-! ### The rows below the operations (their effect as instructions is the model's choice, log 4) -/

/-- Each item of stuffed content gives the byte UNSTUFF makes of it: the nine escapes, any other escape, a dangling marker, a plain
byte (what the row does as an instruction: log 4). -/
def Obligations.ContentItemsUnstuff : Prop :=
  ∀ s : State,
    exec .esc00 s = .next (s.reply (.bytes [0x00])) ∧ exec .esc01 s = .next (s.reply (.bytes [0x01])) ∧
    exec .esc02 s = .next (s.reply (.bytes [0x02])) ∧ exec .esc03 s = .next (s.reply (.bytes [0x03])) ∧
    exec .esc04 s = .next (s.reply (.bytes [0x04])) ∧ exec .esc0A s = .next (s.reply (.bytes [0x0A])) ∧
    exec .esc0D s = .next (s.reply (.bytes [0x0D])) ∧ exec .esc10 s = .next (s.reply (.bytes [0x10])) ∧
    exec .esc17 s = .next (s.reply (.bytes [0x17])) ∧
    (∀ v : Byte, exec (.escAny v) s = .next (s.reply (.bytes [v ^^^ 0x40]))) ∧
    exec .shiftDangling s = .next (s.reply (.bytes [])) ∧
    ∀ b : Byte, b ≠ 0x10 → exec (.plain b) s = .next (s.reply (.bytes [b]))

/-- A header byte 1 of each kind gives its own fields back, with the format the kind selects and the queue of an undamaged packet (what
the row does as an instruction: log 4). -/
def Obligations.KindRowsReadTheHeaderByte : Prop :=
  ∀ (e : Bool) (p : BitVec 4) (s : State),
    let gives := fun (k : Kind) (f : FrameFormat) (q : Option InQueue) =>
      (Host.Outcome.next (s.reply (.kind { encrypted := e, port := p, kind := k, format := f, queue := q })) :
        Host.Outcome State Fault Refusal)
    exec (.kindData e p) s = gives .data .formatM (some .qData) ∧
    exec (.kindReserved e p) s = gives .reserved .formatC none ∧
    exec (.kindPositiveAck e p) s = gives .positiveAck .formatC (some .qAck) ∧
    exec (.kindNegativeAck e p) s = gives .negativeAck .formatC (some .qAck) ∧
    exec (.kindRequest e p) s = gives .request .formatM (some .qData) ∧
    exec (.kind5 e p) s = gives .undefined5 .formatC none ∧
    exec (.kind6 e p) s = gives .undefined6 .formatC none ∧
    exec (.kind7 e p) s = gives .undefined7 .formatC none

/-- An unstuffed form of Format C gives its header and nothing else; one of Format M gives all its fields, and fails exactly when its
CRC field is not the CRC of what precedes it (what the row does as an instruction: log 4). -/
def Obligations.FormatRowsDecode : Prop :=
  (∀ (h : Header) (s : State), isMessage h.kind = false →
    exec (.formatC h) s =
      .next (s.reply (.packet { toHeader := h, msg := none, payload := [], crc := none, fail := false }))) ∧
  ∀ (h : Header) (m : Message) (payload : List Byte) (crc : Word16) (s : State),
    isMessage h.kind = true → payload.length ≤ 65535 →
    exec (.formatM h m payload crc) s =
      .next (s.reply (.packet { toHeader := h, msg := some m, payload := payload, crc := some crc
                                fail := decide (crc ≠ messageCrc h m payload) }))

/-! ### Encoding -/

/-- Decoding the encoding of a well-formed instruction gives it back, at its own level, with every operand. The operand layout is the
model's (log 3). -/
def Obligations.DecodeEncodeAgree : Prop :=
  ∀ i : Instr, i.wf = true → decodeAt (encode i).1 (encode i).2 = .ok (i, [])

/-- An operation, or a register write, is read to its end and no further: the bytes after it are left (log 3). -/
def Obligations.OperandsEndWhereTheyEnd : Prop :=
  ∀ (i : Instr) (rest : List Byte), i.wf = true → (encode i).1 = .operation ∨ (encode i).1 = .register →
    decodeAt (encode i).1 ((encode i).2 ++ rest) = .ok (i, rest)

/-- A few encodings written out from 30_encoding.md (R111, R114, R117, R121, R123, R124) decode to what they stand for (operands in
the layout of log 3). -/
def Obligations.WrittenOutEncodingsDecode : Prop :=
  decodeAt .operation [0x01, 0x42] = .ok (.openLink 0x42, []) ∧
  decodeAt .operation [0x06, 0x04] = .ok (.rxByte 0x04, []) ∧
  decodeAt .register [0x03, 0x05] = .ok (.setMaxRetx 5, []) ∧
  decodeAt .stream [0x01] = .ok (.soh, []) ∧
  decodeAt .content [0x10, 0x4D] = .ok (.esc0D, []) ∧
  decodeAt .content [0x10] = .ok (.shiftDangling, []) ∧
  decodeAt .header [0xAC] = .ok (.kindRequest true 5, []) ∧
  decodeAt .frame [0x01, 0x02, 0x07, 0x42, 0x41] =
    .ok (.formatC { parity := 0, version := 1, encrypted := false, port := 0, kind := .positiveAck
                    seq := 7, src := 0x42, dst := 0x41 }, []) ∧
  decodeAt .wire [0x01, 0x10, 0x41, 0x10, 0x42, 0x07, 0x42, 0x41, 0x04] = .ok (.wire [0x01, 0x02, 0x07, 0x42, 0x41], [])

/-! ### The receive path -/

/-- R231: one received byte: bound test, end marker, content, scan for a start marker; nothing but `S.rx_buf` and `Q_RAW` changes. A
frame that completes is lost exactly when `Q_RAW` holds `Q_DEPTH` frames. -/
def Obligations.ReceiveByteReassembles : Prop :=
  ∀ (b : Byte) (s : State), s.linkOpen = true →
    exec (.rxByte b) s =
      .next { s with link :=
        if 0 < s.link.rxBuf.length ∧ ¬ s.link.rxBuf.length + 1 > s.link.cfg.maxFrame.toNat then
          if b = 0x04 then { s.link with
            rxBuf := []
            qRaw :=
              if s.params.qDepth = some s.link.qRaw.length then s.link.qRaw else s.link.qRaw ++ [s.link.rxBuf ++ [0x04]] }
          else { s.link with rxBuf := s.link.rxBuf ++ [b] }
        else if b = 0x01 then { s.link with rxBuf := [0x01] }
        else { s.link with rxBuf := [] } }

/-- The three byte classes: with no frame active, with one active inside the bound, with one active at the bound, which is discarded
while a start marker opens the next one, and on a closed link, where they are refused (R232 to R235, R321). That the rows act as the
RX_BYTE of their byte is the model's reading (log 4). -/
def Obligations.StreamRowsReachTheReassembler : Prop :=
  ∀ s : State,
    (s.linkOpen = false →
      exec .soh s = .next (s.refuse .notOpen) ∧ exec .eot s = .next (s.refuse .notOpen) ∧
      ∀ b : Byte, exec (.content b) s = .next (s.refuse .notOpen)) ∧
    (s.linkOpen = true → s.link.rxBuf = [] →
      exec .soh s = .next { s with link := { s.link with rxBuf := [0x01] } } ∧
      exec .eot s = .next s ∧
      ∀ b : Byte, b ≠ 0x01 → exec (.content b) s = .next s) ∧
    (s.linkOpen = true → s.link.rxBuf ≠ [] → s.link.rxBuf.length + 1 ≤ s.link.cfg.maxFrame.toNat →
      exec .soh s = .next { s with link := { s.link with rxBuf := s.link.rxBuf ++ [0x01] } } ∧
      exec .eot s =
        .next { s with link := { s.link with
          rxBuf := []
          qRaw := if s.params.qDepth = some s.link.qRaw.length then s.link.qRaw else s.link.qRaw ++ [s.link.rxBuf ++ [0x04]] } } ∧
      ∀ b : Byte, b ≠ 0x04 → exec (.content b) s = .next { s with link := { s.link with rxBuf := s.link.rxBuf ++ [b] } }) ∧
    (s.linkOpen = true → s.link.rxBuf ≠ [] → s.link.cfg.maxFrame.toNat < s.link.rxBuf.length + 1 →
      exec .soh s = .next { s with link := { s.link with rxBuf := [0x01] } } ∧
      exec .eot s = .next { s with link := { s.link with rxBuf := [] } } ∧
      ∀ b : Byte, b ≠ 0x01 → exec (.content b) s = .next { s with link := { s.link with rxBuf := [] } })

/-- A wire form that fits `MAX_FRAME`, received while no frame is active, becomes exactly one RawFrame, lost only if `Q_RAW` is full
(R84, R117, R231, R237); on a closed link each of its bytes is refused (R321). The row WIRE as an instruction: log 4. -/
def Obligations.WireFormIsReceivedWhole : Prop :=
  ∀ (u : List Byte) (s : State),
    (s.linkOpen = true → s.link.rxBuf = [] → (wireForm u).length ≤ s.link.cfg.maxFrame.toNat →
      exec (.wire u) s =
        .next { s with link := { s.link with
          qRaw := if s.params.qDepth = some s.link.qRaw.length then s.link.qRaw else s.link.qRaw ++ [wireForm u] } }) ∧
    (s.linkOpen = false →
      exec (.wire u) s =
        .next { s with replies := s.replies ++ List.replicate (wireForm u).length (.refused .notOpen) })

/-- A wire form longer than `MAX_FRAME`, received while no frame is active, is discarded without a trace (R233, R350, R412; the
row WIRE as an instruction: log 4). -/
def Obligations.OverlongWireFormIsDiscarded : Prop :=
  ∀ (u : List Byte) (s : State), s.linkOpen = true → s.link.rxBuf = [] →
    s.link.cfg.maxFrame.toNat < (wireForm u).length →
    exec (.wire u) s = .next s

/-- End to end: a valid packet's frame, received whole and drained by phase 1, stands in the queue of its kind as it was sent (from
R207, R210, R231, R255; the row WIRE as an instruction: log 4). -/
def Obligations.SentFrameArrivesUnchanged : Prop :=
  ∀ (p : Packet) (u : List Byte) (s : State), validPacket p = true → unstuffed p = some u →
    s.linkOpen = true → s.link.rxBuf = [] → s.link.qRaw = [] → s.params.qDepth = none →
    (wireForm u).length ≤ s.link.cfg.maxFrame.toNat →
    ∃ t, exec (.wire u) s = .next t ∧
      phase1 t =
        { s with link :=
          if isMessage p.kind then { s.link with qData := s.link.qData ++ [p] }
          else { s.link with qAck := s.link.qAck ++ [p] } }

/-! ### The host operations -/

/-- R320: OPEN on an open link is refused; a failing transport refuses it; otherwise every item of state takes its value of R59. That
the OPEN a failing transport refuses leaves every item as it was, the unspecified ones too, is the model's choice (log 20); so is that
the time registers hold 200 and 1 where a finite `TIME_W` is too narrow for them (log 22). -/
def Obligations.OpenCreatesTheLink : Prop :=
  ∀ (a : Byte) (s : State),
    (s.linkOpen = true → exec (.openLink a) s = .next (s.refuse .alreadyOpen)) ∧
    (s.linkOpen = false → s.env.transportOpens = false →
      exec (.openLink a) s = .next ((s.emit (.transportOpen false)).refuse .transportInit)) ∧
    (s.linkOpen = false → s.env.transportOpens = true →
      ∃ t, exec (.openLink a) s = .next t ∧
        t.linkOpen = true ∧ t.link.stop = false ∧ t.link.sendState = .idle ∧ t.link.seqCtr = 0 ∧
        t.link.ackToCnt = 0 ∧ t.link.nackCnt = 0 ∧ t.link.requestOpen = false ∧ t.link.responseReceived = false ∧
        t.link.lastAckSeq = none ∧ t.link.rxBuf = [] ∧
        t.link.qOut = [] ∧ t.link.qData = [] ∧ t.link.qAck = [] ∧ t.link.qRaw = [] ∧ t.link.pending = [] ∧
        t.link.cfg.localAddr = a ∧ t.link.cfg.ackTimeout = 200 ∧ t.link.cfg.respTimeout = 200 ∧ t.link.cfg.maxRetx = 3 ∧
        t.link.cfg.idleDelay = 1 ∧ t.link.cfg.maxFrame = 256 ∧
        t.trace = s.trace ++ [.transportOpen true] ∧ t.replies = s.replies ++ [.accepted] ∧
        t.params = s.params ∧ t.inputs = s.inputs ∧ t.env = s.env)

/-- The machine at power-on is closed and OPEN is its reset (R400): before it every operation on the link is refused and nothing is
written, and the five pure units run; after it the machine is open and idle. That the register and stream rows are refused like the
operations they stand for is the model's reading (log 4); that the trace is empty (log 5) and that the build-time parameters are the
defaults of R9, and 0 for the two that have none (log 8), are the model's choices. -/
def Obligations.ResetIsClosed : Prop :=
  State.reset.linkOpen = false ∧ State.reset.trace = [] ∧
  State.reset.params =
    { resetCmd := 0, resetMask := 0, parity := .constant 0, protocolVersion := 1, qDepth := none, timeW := none } ∧
  (∀ i : Instr,
    (encode i).1 = .register ∨ (encode i).1 = .stream ∨ i = .close ∨ (∃ t, i = .enqueue t) ∨ (∃ reg v, i = .setConfig reg v) ∨
      (∃ now, i = .tick now) ∨ (∃ b, i = .rxByte b) →
    exec i State.reset = .next (State.reset.refuse .notOpen)) ∧
  (∀ x : List Byte, exec (.stuff x) State.reset = .next (State.reset.reply (.bytes (stuff x)))) ∧
  (∀ y : List Byte, exec (.unstuff y) State.reset = .next (State.reset.reply (.bytes (unstuff y)))) ∧
  (∀ (buf : List Byte) (n : Nat), n ≤ buf.length →
    exec (.crc16 buf n) State.reset = .next (State.reset.reply (.word (crc16 buf n)))) ∧
  (∀ p : Packet, isMessage p.kind = true ∨ isControl p.kind = true →
    ∃ w, encodePacket p = some w ∧ exec (.encode p) State.reset = .next (State.reset.reply (.bytes w))) ∧
  (∀ r : List Byte, exec (.decode r) State.reset = .next (State.reset.reply (.packet (decodeFrame r)))) ∧
  ∀ a : Byte, ∃ t, exec (.openLink a) State.reset = .next t ∧ running t = true ∧ linkIdle t.link = true

/-- CLOSE ends the link whatever falls between its two steps, and fires no event for what is lost; on a closed link it is refused
(R327, R321; the steps of other agents between them: log 9, log 10). Beside a worker that stands still it sets the stop flag, and then
waits or ends the link: which of the two is a free value (U10; log 10). A CLOSE that begins inside a TICK: TickRunsPhasesInOrder. -/
def Obligations.CloseEndsTheLink : Prop :=
  ∀ s : State,
    (s.linkOpen = false → exec .close s = .next (s.refuse .notOpen)) ∧
    (s.linkOpen = true → s.link.stalled = false →
      ∃ t out, exec .close s = .next t ∧ t.linkOpen = false ∧ t.params = s.params ∧ t.inputs = s.inputs ∧ t.env = s.env ∧
        t.trace = s.trace ++ out ++ [.transportClose] ∧ (∀ o ∈ out, isEvent o = false) ∧
        t.replies.getLast? = some .accepted) ∧
    (s.linkOpen = true → s.link.stalled = false → s.env.gaps.duringClose = [] →
      ∃ t, exec .close s = .next t ∧ t.trace = s.trace ++ [.transportClose] ∧ t.replies = s.replies ++ [.accepted]) ∧
    (s.linkOpen = true → s.link.stalled = true → s.env.gaps.duringClose = [] →
      ∃ t, exec .close s = .next t ∧ t.params = s.params ∧ t.inputs = s.inputs ∧ t.env = s.env ∧
        (t.link = { s.link with stop := true } ∧ t.linkOpen = true ∧ t.trace = s.trace ∧ t.replies = s.replies ∨
          t.linkOpen = false ∧ t.trace = s.trace ++ [.transportClose] ∧ t.replies = s.replies ++ [.accepted]))

/-- On a closed link TICK, ENQUEUE, SET_CONFIG, CLOSE and RX_BYTE are refused with NOT_OPEN and change nothing else; once CLOSE has
begun ENQUEUE and SET_CONFIG are refused (R321). -/
def Obligations.ClosedLinkRefuses : Prop :=
  ∀ s : State,
    (s.linkOpen = false →
      (∀ now, exec (.tick now) s = .next (s.refuse .notOpen)) ∧ (∀ t, exec (.enqueue t) s = .next (s.refuse .notOpen)) ∧
      (∀ reg v, exec (.setConfig reg v) s = .next (s.refuse .notOpen)) ∧ exec .close s = .next (s.refuse .notOpen) ∧
      ∀ b, exec (.rxByte b) s = .next (s.refuse .notOpen)) ∧
    (s.linkOpen = true → s.link.stop = true →
      (∀ t, exec (.enqueue t) s = .next (s.refuse .notOpen)) ∧
      ∀ reg v, exec (.setConfig reg v) s = .next (s.refuse .notOpen))

/-- R325: an accepted ENQUEUE takes the number of the counter, which then advances modulo 256; the block fills in parity and `fail`;
nothing else changes. -/
def Obligations.EnqueueAssignsTheNextNumber : Prop :=
  ∀ (t : Template) (s : State), running s = true → acceptable s.link.cfg t = true →
    isFull s.params.qDepth s.link.qOut = false →
    let x : Packet :=
      { parity := 0, version := t.version, encrypted := t.encrypted, port := t.port, kind := t.kind, seq := s.link.seqCtr
        src := t.src, dst := t.dst, msg := some t.msg, payload := t.payload, crc := none, fail := false }
    exec (.enqueue t) s =
      .next { s with
        link := { s.link with
          qOut := s.link.qOut ++ [{ x with parity := parityOf s.params x }], seqCtr := s.link.seqCtr + 1 }
        replies := s.replies ++ [.accepted] }

/-- R322: the checks of ENQUEUE in order, the first that fails giving the reason; a refused ENQUEUE changes nothing. -/
def Obligations.EnqueueChecksInOrder : Prop :=
  ∀ (t : Template) (s : State),
    exec (.enqueue t) s =
      if s.linkOpen = false ∨ s.link.stop = true then .next (s.refuse .notOpen)
      else if t.kind ≠ .data ∧ t.kind ≠ .request then .next (s.refuse .badKind)
      else if t.payload.length > s.link.cfg.maxFrame.toNat - 12 then .next (s.refuse .tooLong)
      else if s.params.qDepth = some s.link.qOut.length then .next (s.refuse .queueFull)
      else .next ({ s with link := { s.link with
        qOut := s.link.qOut ++ [packetOf s.params s.link.seqCtr t], seqCtr := s.link.seqCtr + 1 } }.reply .accepted)

/-- Accepted ENQUEUEs in a row get consecutive numbers modulo 256, so the 257th repeats the first (R326, derived there). -/
def Obligations.SequenceNumbersWrap : Prop :=
  ∀ (ts : List Template) (s : State), running s = true → s.params.qDepth = none →
    (∀ t ∈ ts, acceptable s.link.cfg t = true) →
    let s' := ts.foldl (fun s t => enqueue t s) s
    s'.link.qOut.map (·.seq) =
      s.link.qOut.map (·.seq) ++ (List.range ts.length).map (fun k => s.link.seqCtr + BitVec.ofNat 8 k) ∧
    (ts.length = 256 → s'.link.seqCtr = s.link.seqCtr)

/-- R330, R333: SET_CONFIG checks the life cycle, the register number and the value, then writes on an idle link and holds otherwise. -/
def Obligations.SetConfigChecksThenWritesOrHolds : Prop :=
  ∀ (reg : BitVec 3) (v : Nat) (s : State),
    let c := s.link.cfg
    let legal := (reg = 0 → v ≤ 255) ∧ (reg = 1 ∨ reg = 2 ∨ reg = 4 → ∀ w, s.params.timeW = some w → v < 2 ^ w) ∧
      (reg = 3 → v ≤ 254) ∧ (reg = 5 → 12 ≤ v ∧ v ≤ 65535)
    let idle := s.link.sendState = .idle ∧ s.link.rxBuf = []
    let written : LinkConfig :=
      if reg = 0 then { c with localAddr := BitVec.ofNat 8 v } else if reg = 1 then { c with ackTimeout := v }
      else if reg = 2 then { c with respTimeout := v } else if reg = 3 then { c with maxRetx := BitVec.ofNat 8 v }
      else if reg = 4 then { c with idleDelay := v } else if reg = 5 then { c with maxFrame := BitVec.ofNat 16 v }
      else { c with workerPriority := v }
    (s.linkOpen = false ∨ s.link.stop = true → exec (.setConfig reg v) s = .next (s.refuse .notOpen)) ∧
    (running s = true → reg = 7 → exec (.setConfig reg v) s = .next (s.refuse .badReg)) ∧
    (running s = true → reg ≠ 7 → ¬ legal → exec (.setConfig reg v) s = .next (s.refuse .badValue)) ∧
    (running s = true → reg ≠ 7 → legal → idle →
      exec (.setConfig reg v) s =
        .next { s with link := { s.link with cfg := written }, replies := s.replies ++ [.accepted] }) ∧
    (running s = true → reg ≠ 7 → legal → ¬ idle →
      ∃ r : CfgReg,
        ([.localAddr, .ackTimeout, .respTimeout, .maxRetx, .idleDelay, .maxFrame, .workerPriority] : List CfgReg)[reg.toNat]? = some r ∧
        exec (.setConfig reg v) s =
          .next { s with link := { s.link with pending := s.link.pending ++ [(r, v)] }, replies := s.replies ++ [.accepted] })

/-- The register rows: each writes its own register, and only it, on an idle link, and is held on any other; a value outside R333 and
register 7 are refused, and so is every row on a link that is closed or closing (R45 to R52, R321, R330 to R333; the rows as
instructions: log 4). -/
def Obligations.RegisterRowsWriteTheirRegister : Prop :=
  ∀ s : State,
    (s.linkOpen = false ∨ s.link.stop = true →
      (∀ v, exec (.setLocalAddr v) s = .next (s.refuse .notOpen)) ∧ (∀ v, exec (.setAckTimeout v) s = .next (s.refuse .notOpen)) ∧
      (∀ v, exec (.setRespTimeout v) s = .next (s.refuse .notOpen)) ∧ (∀ v, exec (.setMaxRetx v) s = .next (s.refuse .notOpen)) ∧
      (∀ v, exec (.setIdleDelay v) s = .next (s.refuse .notOpen)) ∧ (∀ v, exec (.setMaxFrame v) s = .next (s.refuse .notOpen)) ∧
      (∀ v, exec (.setWorkerPriority v) s = .next (s.refuse .notOpen)) ∧ exec .setReserved7 s = .next (s.refuse .notOpen)) ∧
    (running s = true →
      let c := s.link.cfg
      let fits := fun v : Nat => ∀ w, s.params.timeW = some w → v < 2 ^ w
      let refused := fun i : Instr => exec i s = .next (s.refuse .badValue)
      let accepted := fun (i : Instr) (r : CfgReg) (v : Nat) (written : LinkConfig) =>
        (s.link.sendState = .idle ∧ s.link.rxBuf = [] →
          exec i s = .next { s with link := { s.link with cfg := written }, replies := s.replies ++ [.accepted] }) ∧
        (¬ (s.link.sendState = .idle ∧ s.link.rxBuf = []) →
          exec i s =
            .next { s with link := { s.link with pending := s.link.pending ++ [(r, v)] }, replies := s.replies ++ [.accepted] })
      exec .setReserved7 s = .next (s.refuse .badReg) ∧
      (∀ v, accepted (.setLocalAddr v) .localAddr v.toNat { c with localAddr := v }) ∧
      (∀ v, fits v → accepted (.setAckTimeout v) .ackTimeout v { c with ackTimeout := v }) ∧
      (∀ v, ¬ fits v → refused (.setAckTimeout v)) ∧
      (∀ v, fits v → accepted (.setRespTimeout v) .respTimeout v { c with respTimeout := v }) ∧
      (∀ v, ¬ fits v → refused (.setRespTimeout v)) ∧
      (∀ v : Byte, v.toNat ≤ 254 → accepted (.setMaxRetx v) .maxRetx v.toNat { c with maxRetx := v }) ∧
      (∀ v : Byte, 254 < v.toNat → refused (.setMaxRetx v)) ∧
      (∀ v, fits v → accepted (.setIdleDelay v) .idleDelay v { c with idleDelay := v }) ∧
      (∀ v, ¬ fits v → refused (.setIdleDelay v)) ∧
      (∀ v : Word16, 12 ≤ v.toNat → accepted (.setMaxFrame v) .maxFrame v.toNat { c with maxFrame := v }) ∧
      (∀ v : Word16, v.toNat < 12 → refused (.setMaxFrame v)) ∧
      ∀ v, accepted (.setWorkerPriority v) .workerPriority v { c with workerPriority := v })

/-- The start of a TICK, before phase 1: on an idle link the held requests are written in order and the list is emptied, whatever waits in
the queues; on any other link list and registers stay (R331, R332). The start also notes its time in `lastNow`, the model's own field
(log 12). The phases that follow see the new values (TickRunsPhasesInOrder), and write neither registers nor list. -/
def Obligations.HeldRequestsWaitForIdle : Prop :=
  ∀ (now : Nat) (s : State),
    let n := match s.params.timeW with
      | none => now
      | some w => now % 2 ^ w
    let idle := s.link.sendState = .idle ∧ s.link.rxBuf = []
    let write := fun (c : LinkConfig) (rv : CfgReg × Nat) => match rv.1 with
      | .localAddr => { c with localAddr := BitVec.ofNat 8 rv.2 }
      | .ackTimeout => { c with ackTimeout := rv.2 }
      | .respTimeout => { c with respTimeout := rv.2 }
      | .maxRetx => { c with maxRetx := BitVec.ofNat 8 rv.2 }
      | .idleDelay => { c with idleDelay := rv.2 }
      | .maxFrame => { c with maxFrame := BitVec.ofNat 16 rv.2 }
      | .workerPriority => { c with workerPriority := rv.2 }
    let written := s.link.pending.foldl write s.link.cfg
    (idle → ∀ k, startTick k s = { s with link := { s.link with cfg := written, pending := [], lastNow := k } }) ∧
    (¬ idle → ∀ k, startTick k s = { s with link := { s.link with lastNow := k } }) ∧
    (plainTick s now = true → idle → s.link.qOut = [] →
      exec (.tick now) s = .next { s with link := { s.link with cfg := written, pending := [], lastNow := n } }) ∧
    ∀ t, quietTick s now = true → exec (.tick now) s = .next t →
      (idle → t.link.cfg = written ∧ t.link.pending = []) ∧
      (¬ idle → t.link.cfg = s.link.cfg ∧ t.link.pending = s.link.pending)

/-! ### TICK -/

/-- A TICK of a worker that runs is its start, phase 1, phase 2 and phase 3, in this order, at the time `now`, modulo `2^TIME_W` where the
width is finite (R250, R372), with the steps of other agents between them, each the operation it names, of CLOSE the first step (R88;
where they may fall: log 9). Phase 3 is not reached if a handler called in phase 2 does not return (U13, log 11). A CLOSE that began inside
the TICK lets it end, and then the second step follows: the transport is closed and the link is gone (R327, log 10); beside a worker that
stands still it may wait instead (U10, log 10). -/
def Obligations.TickRunsPhasesInOrder : Prop :=
  (∀ (op : AgentOp) (ops : List AgentOp) (u : State),
    runAgents [] u = u ∧ runAgents (op :: ops) u = runAgents ops (agentStep op u)) ∧
  (∀ u : State,
    (∀ b, exec (.rxByte b) u = .next (agentStep (.rxByte b) u)) ∧
    (∀ a, exec (.openLink a) u = .next (agentStep (.openLink a) u)) ∧
    (∀ t, exec (.enqueue t) u = .next (agentStep (.enqueue t) u)) ∧
    (∀ reg v, exec (.setConfig reg v) u = .next (agentStep (.setConfig reg v) u)) ∧
    (u.linkOpen = true → agentStep .close u = { u with link := { u.link with stop := true } }) ∧
    (u.linkOpen = false → agentStep .close u = u.refuse .notOpen)) ∧
  ∀ (now : Nat) (s : State), running s = true → ready s = true → clockForward s now = true →
    let n := match s.params.timeW with
      | none => now
      | some w => now % 2 ^ w
    let a := runAgents s.env.gaps.beforePhase1 (startTick n s)
    let b := runAgents s.env.gaps.beforePhase2 (phase1 a)
    let c := runAgents s.env.gaps.beforePhase3 (phase2 n b)
    let endsAfter := fun d : State => ∃ t, exec (.tick now) s = .next t ∧
      (d.link.stop = false → t = d) ∧
      (d.link.stop = true →
        let e := runAgents d.env.gaps.duringClose d
        t.params = e.params ∧ t.inputs = e.inputs ∧ t.env = e.env ∧
        (t.linkOpen = false ∧ t.trace = e.trace ++ [.transportClose] ∧ t.replies = e.replies ++ [.accepted] ∨
          e.link.stalled = true ∧ t.linkOpen = e.linkOpen ∧ t.link = e.link ∧ t.trace = e.trace ∧ t.replies = e.replies))
    (c.link.stalled = true → endsAfter c) ∧
    (c.link.stalled = false →
      (∀ d, phase3 n c = .next d → endsAfter d) ∧
      (∀ f, phase3 n c = .fault f → exec (.tick now) s = .fault f) ∧
      ∀ r, phase3 n c = .refused r → exec (.tick now) s = .refused r) ∧
    (undisturbed s = true →
      let p := phase2 n (phase1 (startTick n s))
      exec (.tick now) s = if p.link.stalled = true then .next p else phase3 n p)

/-- R251: once the stop flag is set a TICK does nothing at all; on a closed link it is refused. -/
def Obligations.StoppedTickIsEmpty : Prop :=
  ∀ (now : Nat) (s : State),
    (s.linkOpen = true → s.link.stop = true → exec (.tick now) s = .next s) ∧
    (s.linkOpen = false → exec (.tick now) s = .next (s.refuse .notOpen))

/-- R255, R210: phase 1 empties `Q_RAW`; decoded packets enter `Q_DATA` and `Q_ACK` in the order their frames completed, each lost
exactly when its queue then holds `Q_DEPTH` packets; packets of other kinds are dropped; nothing else changes. -/
def Obligations.RawFramesAreClassifiedInOrder : Prop :=
  ∀ s : State,
    let ps := s.link.qRaw.map decodeFrame
    let append := fun (q : List Packet) (p : Packet) => if s.params.qDepth = some q.length then q else q ++ [p]
    phase1 s =
      { s with link := { s.link with
        qRaw := []
        qData := (ps.filter fun p => p.fail || isMessage p.kind).foldl append s.link.qData
        qAck := (ps.filter fun p => !p.fail && isControl p.kind).foldl append s.link.qAck } }

/-- R259, R260: phase 2 takes at most one packet; one that is not for this node is dropped with nothing else done. -/
def Obligations.IncomingForOthersIsDiscarded : Prop :=
  ∀ (now : Nat) (s : State),
    (s.link.qData = [] → phase2 now s = s) ∧
    ∀ p rest, s.link.qData = p :: rest → p.dst ≠ s.link.cfg.localAddr →
      phase2 now s = { s with link := { s.link with qData := rest } }

/-- R261 to R264: a packet that is not the Data packet answering a Request in flight takes the independent path: the acknowledgement of
R263 is queued, lost exactly when `Q_OUT` holds `Q_DEPTH` packets; a failed packet and a duplicate end there; any other is recorded and
delivered, and a Request opens the answer that is owed. (Handlers that do not return: StalledCallStopsTheWorker.) -/
def Obligations.IncomingIsAcknowledgedAndDelivered : Prop :=
  ∀ (now : Nat) (s : State) (p : Packet) (rest : List Packet),
    s.env.handlerStall = none → s.link.qData = p :: rest → p.dst = s.link.cfg.localAddr →
    ¬ (s.link.sendState ≠ .idle ∧ ∃ h q, s.link.qOut = h :: q ∧ h.kind = .request ∧ p.fail = false ∧ p.kind = .data ∧
      p.seq = h.seq) →
    let a : Packet :=
      { parity := 0, version := s.params.protocolVersion, encrypted := false, port := p.port
        kind := if p.fail then .negativeAck else .positiveAck
        seq := p.seq, src := s.link.cfg.localAddr, dst := p.src, msg := none, payload := [], crc := none, fail := false }
    let acked : Link :=
      { s.link with
        qData := rest
        qOut := if s.params.qDepth = some s.link.qOut.length then s.link.qOut
          else s.link.qOut ++ [{ a with parity := parityOf s.params a }] }
    phase2 now s =
      if p.fail = true ∨ s.link.lastAckSeq = some p.seq then { s with link := acked }
      else
        { s with
          link := { acked with
            lastAckSeq := some p.seq
            requestOpen := if p.kind = .request then true else s.link.requestOpen
            tReq := if p.kind = .request then now else s.link.tReq }
          trace := s.trace ++ [.event (.onPacketReceived p)] }

/-- Of two consecutive inbound Data packets with one sequence number exactly one is delivered, over two TICKs, neither packet being the
answer to a Request in flight and no reset reply standing in `Q_OUT` (the testable property of R264). -/
def Obligations.DuplicateIsDeliveredOnce : Prop :=
  ∀ (now now' : Nat) (s t u : State) (p q : Packet) (rest : List Packet),
    quietTick s now = true → exec (.tick now) s = .next t → quietTick t now' = true → exec (.tick now') t = .next u →
    s.link.qData = p :: q :: rest → p.kind = .data → q.kind = .data → p.fail = false → q.fail = false →
    p.dst = s.link.cfg.localAddr → q.dst = s.link.cfg.localAddr → q.seq = p.seq → s.link.pending = [] →
    ¬ (s.link.sendState ≠ .idle ∧ ∃ h r, s.link.qOut = h :: r ∧ h.kind = .request ∧ p.seq = h.seq) →
    ¬ (t.link.sendState ≠ .idle ∧ ∃ h r, t.link.qOut = h :: r ∧ h.kind = .request ∧ q.seq = h.seq) →
    (∀ h ∈ s.link.qOut, ∀ m b r, h.kind = .data → h.msg = some m → h.payload = b :: r → m.command = s.params.resetCmd →
      b &&& s.params.resetMask = 0) →
    s.link.lastAckSeq ≠ some p.seq →
    let isDelivery := fun o : Output => match o with
      | .event (.onPacketReceived _) => true
      | _ => false
    (u.trace.drop s.trace.length).filter isDelivery = [.event (.onPacketReceived p)]

/-- R265, R268: the answer to a Request in flight sets the flag and is delivered, with reset detection and with no acknowledgement and
no duplicate test; the Request itself stays in flight. (Handlers that do not return: StalledCallStopsTheWorker.) -/
def Obligations.AnswerSetsTheResponseFlag : Prop :=
  ∀ (now : Nat) (s : State) (p h : Packet) (rest q : List Packet),
    s.env.handlerStall = none → s.link.qData = p :: rest → p.dst = s.link.cfg.localAddr → s.link.sendState ≠ .idle →
    s.link.qOut = h :: q → h.kind = .request → p.fail = false → p.kind = .data → p.seq = h.seq →
    let restarted := ∃ m b payload, p.msg = some m ∧ p.payload = b :: payload ∧ m.command = s.params.resetCmd ∧
      b &&& s.params.resetMask ≠ 0
    (restarted → phase2 now s =
        { s with
          link := { s.link with qData := rest, responseReceived := true, seqCtr := 0, lastAckSeq := none }
          trace := s.trace ++ [.event (.onPacketReceived p)] }) ∧
    (¬ restarted → phase2 now s =
        { s with
          link := { s.link with qData := rest, responseReceived := true }
          trace := s.trace ++ [.event (.onPacketReceived p)] })

/-- R271: phase 3 of an Idle TICK goes to Sending exactly when `Q_OUT` is not empty, and does nothing else. -/
def Obligations.IdleStartsSending : Prop :=
  ∀ (now : Nat) (s : State), s.link.sendState = .idle →
    phase3 now s =
      .next { s with link := { s.link with sendState := if s.link.qOut = [] then .idle else .sending } }

/-- R273: a head that comes too late to be the answer owed, `CFG.RESP_TIMEOUT` or more after the Request (R15, R372, R373), is dropped
unsent, with no event. -/
def Obligations.StaleAnswerIsDropped : Prop :=
  ∀ (now : Nat) (s : State) (h : Packet) (q : List Packet),
    s.link.sendState = .sending → s.link.qOut = h :: q → s.link.requestOpen = true →
    let waited := match s.params.timeW with
      | none => now - s.link.tReq
      | some w => (now + 2 ^ w - s.link.tReq % 2 ^ w) % 2 ^ w
    s.link.cfg.respTimeout ≤ waited →
    phase3 now s =
      .next { s with link := { s.link with
        qOut := q, ackToCnt := 0, nackCnt := 0, requestOpen := false, sendState := .idle } }

/-- R274, R275, R276, R277: Sending, its head not stale (R273), makes reset detection, writes the head's wire form in one call and reports
it; a control packet is done with; a message packet that answers a Request is done with and reported; any other waits for its ack from
`now` on. The steps of other agents fall during the write, while the head stays in `Q_OUT` (R89; log 9), and what follows the write starts
from what they leave. Reset detection is of a Data packet with the command and a mask bit in its first payload byte, and of no other
(R268). -/
def Obligations.SendingWritesAndDisposes : Prop :=
  ∀ (now : Nat) (s : State) (l : Link) (h : Packet) (q : List Packet) (w : List Byte),
    s.linkOpen = true → ready s = true → returns s = true →
    s.link.sendState = .sending → s.link.qOut = h :: q → encodePacket h = some w →
    let waited := match s.params.timeW with
      | none => now - s.link.tReq
      | some w => (now + 2 ^ w - s.link.tReq % 2 ^ w) % 2 ^ w
    (s.link.requestOpen = true → waited < s.link.cfg.respTimeout) →
    let restarted := h.kind = .data ∧ ∃ m b payload, h.msg = some m ∧ h.payload = b :: payload ∧
      m.command = s.params.resetCmd ∧ b &&& s.params.resetMask ≠ 0
    (restarted → l = { s.link with seqCtr := 0, lastAckSeq := none }) → (¬ restarted → l = s.link) →
    let m := runAgents s.env.gaps.duringWrite
      { s with link := { l with qOut := withCrc h :: q }, trace := s.trace ++ [.write w] }
    (∃ r, m.link.qOut = withCrc h :: r) ∧ m.trace = s.trace ++ [.write w] ∧
    (isControl h.kind = true →
      phase3 now s =
        .next { m with
          link := { m.link with qOut := m.link.qOut.tail, ackToCnt := 0, nackCnt := 0, sendState := .idle }
          trace := m.trace ++ [.event (.onRawBytesSent w)] }) ∧
    (isMessage h.kind = true → s.link.requestOpen = true →
      phase3 now s =
        .next { m with
          link := { m.link with
            qOut := m.link.qOut.tail, ackToCnt := 0, nackCnt := 0, sendState := .idle, requestOpen := false }
          trace := m.trace ++ [.event (.onRawBytesSent w), .event (.onPacketSent (withCrc h))] }) ∧
    (isMessage h.kind = true → s.link.requestOpen = false →
      phase3 now s =
        .next { m with
          link := { m.link with tSend := now, sendState := .waitingForAck }
          trace := m.trace ++ [.event (.onRawBytesSent w)] })

/-- R280, R281: acks ahead of the match are observed and dropped; a matching PositiveAck completes a Data packet, and sends a Request on
to wait for its answer. -/
def Obligations.PositiveAckCompletesOrAwaitsAnswer : Prop :=
  ∀ (now : Nat) (s : State) (h a : Packet) (q before after : List Packet), ready s = true → s.env.handlerStall = none →
    s.link.sendState = .waitingForAck → s.link.qOut = h :: q → s.link.qAck = before ++ a :: after →
    (∀ x ∈ before, x.seq ≠ h.seq) → a.seq = h.seq → a.kind = .positiveAck →
    let seen := s.trace ++ (before ++ [a]).map fun x => .event (.onAckNackObserved false (some x))
    let l := { s.link with qAck := after, ackToCnt := 0, nackCnt := 0 }
    phase3 now s =
      if h.kind = .request then .next { s with link := { l with sendState := .waitingForResponse }, trace := seen }
      else .next { s with
        link := { l with sendState := .idle, qOut := q }, trace := seen ++ [.event (.onPacketSent h)] }

/-- R280, R282: a matching NegativeAck counts; the packet is sent again, or given up when the count exceeds `MAX_RETX`. -/
def Obligations.NegativeAckRetriesOrFails : Prop :=
  ∀ (now : Nat) (s : State) (h a : Packet) (q before after : List Packet), ready s = true → s.env.handlerStall = none →
    s.link.sendState = .waitingForAck → s.link.qOut = h :: q → s.link.qAck = before ++ a :: after →
    (∀ x ∈ before, x.seq ≠ h.seq) → a.seq = h.seq → a.kind = .negativeAck →
    let seen := s.trace ++ (before ++ [a]).map fun x => .event (.onAckNackObserved false (some x))
    let l := { s.link with qAck := after, ackToCnt := 0 }
    phase3 now s =
      if s.link.nackCnt + 1 > s.link.cfg.maxRetx then
        .next { s with
          link := { l with sendState := .idle, qOut := q, nackCnt := 0 }, trace := seen ++ [.event (.onNackFail h)] }
      else .next { s with link := { l with sendState := .sending, nackCnt := s.link.nackCnt + 1 }, trace := seen }

/-- R280, R283: with no matching ack every entry of `Q_ACK` is observed and dropped; then, once `CFG.ACK_TIMEOUT` or more has passed since
the send (R15, R372, R373), the packet is sent again, or given up when the count exceeds `MAX_RETX`; before that nothing else
happens. -/
def Obligations.AckTimeoutRetriesOrFails : Prop :=
  ∀ (now : Nat) (s : State) (h : Packet) (q : List Packet), ready s = true → s.env.handlerStall = none →
    s.link.sendState = .waitingForAck → s.link.qOut = h :: q → (∀ x ∈ s.link.qAck, x.seq ≠ h.seq) →
    let waited := match s.params.timeW with
      | none => now - s.link.tSend
      | some w => (now + 2 ^ w - s.link.tSend % 2 ^ w) % 2 ^ w
    let seen := s.trace ++ s.link.qAck.map fun x => .event (.onAckNackObserved false (some x))
    let timedOut := seen ++ [.event (.onAckNackObserved true none)]
    let l := { s.link with qAck := [] }
    phase3 now s =
      if s.link.cfg.ackTimeout ≤ waited then
        if s.link.ackToCnt + 1 > s.link.cfg.maxRetx then
          .next { s with
            link := { l with sendState := .idle, qOut := q, ackToCnt := 0, nackCnt := 0 }
            trace := timedOut ++ [.event (.onAckTimeout h)] }
        else .next { s with
          link := { l with sendState := .sending, ackToCnt := s.link.ackToCnt + 1 }, trace := timedOut }
      else .next { s with link := l, trace := seen }

/-- R287, R288: the answer ends the Request with no event; `CFG.RESP_TIMEOUT`, counted from the last send (R15, R372, R373), ends it with
one; the answer wins; otherwise the machine waits. -/
def Obligations.AnswerOrTimeoutEndsTheRequest : Prop :=
  ∀ (now : Nat) (s : State) (h : Packet) (q : List Packet), ready s = true → s.env.handlerStall = none →
    s.link.sendState = .waitingForResponse → s.link.qOut = h :: q →
    let waited := match s.params.timeW with
      | none => now - s.link.tSend
      | some w => (now + 2 ^ w - s.link.tSend % 2 ^ w) % 2 ^ w
    let ended := { s.link with qOut := q, ackToCnt := 0, nackCnt := 0, sendState := .idle }
    phase3 now s =
      if s.link.responseReceived = true then .next { s with link := { ended with responseReceived := false } }
      else if s.link.cfg.respTimeout ≤ waited then
        .next { s with link := ended, trace := s.trace ++ [.event (.onResponseTimeout h)] }
      else .next s

/-- A write or a handler that never returns leaves the worker standing still where it was, for ever: what came before the call has
happened, the send-state is the old one, the steps of other agents go on, and every later TICK is empty (U9, U13; the environment's
answers, and where in the phase the worker stands: log 11; the other agents: log 9). Phase 2 does all it does where handlers return, and stands still at its end if
the one it called does not. Phase 3 calls handlers after the write (`onRawBytesSent`, `onPacketSent`), for each entry of `Q_ACK` and for the
ack timeout (`onAckNackObserved`), and at each end of a packet (`onPacketSent`, `onNackFail`, `onAckTimeout`, `onResponseTimeout`): each of
them has its clause. RX_BYTE and the host's operations run on: their statements hold on a link whose worker stands still. -/
def Obligations.StalledCallStopsTheWorker : Prop :=
  ∀ (now : Nat) (s : State) (h : Packet) (q : List Packet),
    let waited := fun since : Nat => match s.params.timeW with
      | none => now - since
      | some w => (now + 2 ^ w - since % 2 ^ w) % 2 ^ w
    let observed := fun xs : List Packet => xs.map fun x => Output.event (.onAckNackObserved false (some x))
    let called := { s.env with handlerStall := some 0 }
    (s.linkOpen = true → s.link.stalled = true → exec (.tick now) s = .next s) ∧
    (let t := phase2 now { s with env := { s.env with handlerStall := none } }
     (t.trace = s.trace → phase2 now s = { t with env := s.env }) ∧
     (t.trace ≠ s.trace →
       phase2 now s =
         { t with
           link := { t.link with stalled := s.link.stalled || decide (s.env.handlerStall = some 0) }
           env := { s.env with handlerStall := s.env.handlerStall.map (· - 1) } })) ∧
    (s.link.qOut = h :: q → s.link.sendState = .sending → ∀ (l : Link) (w : List Byte), encodePacket h = some w →
      (s.link.requestOpen = true → waited s.link.tReq < s.link.cfg.respTimeout) →
      let restarted := h.kind = .data ∧ ∃ m b payload, h.msg = some m ∧ h.payload = b :: payload ∧
        m.command = s.params.resetCmd ∧ b &&& s.params.resetMask ≠ 0
      (restarted → l = { s.link with seqCtr := 0, lastAckSeq := none }) → (¬ restarted → l = s.link) →
      let m := runAgents s.env.gaps.duringWrite
        { s with link := { l with qOut := withCrc h :: q }, trace := s.trace ++ [.write w] }
      (s.env.writeReturns = false →
        phase3 now s =
          .next (runAgents s.env.gaps.duringWrite
            { s with link := { l with qOut := withCrc h :: q, stalled := true }, trace := s.trace ++ [.write w] })) ∧
      (s.env.writeReturns = true → s.env.handlerStall = some 0 →
        phase3 now s =
          .next { m with link := { m.link with stalled := true }, trace := m.trace ++ [.event (.onRawBytesSent w)] }) ∧
      (s.env.writeReturns = true → s.env.handlerStall = some 1 → s.linkOpen = true → ready s = true →
        isMessage h.kind = true → s.link.requestOpen = true →
        phase3 now s =
          .next { m with
            link := { m.link with qOut := m.link.qOut.tail, ackToCnt := 0, nackCnt := 0, stalled := true }
            trace := m.trace ++ [.event (.onRawBytesSent w), .event (.onPacketSent (withCrc h))]
            env := called })) ∧
    (s.link.qOut = h :: q → s.link.sendState = .waitingForAck → ready s = true →
      (∀ (before after : List Packet) (a : Packet), s.link.qAck = before ++ a :: after → (∀ x ∈ before, x.seq ≠ h.seq) →
        let seen := s.trace ++ observed (before ++ [a])
        let ended : Link := { s.link with qAck := after, qOut := q, ackToCnt := 0, nackCnt := 0, stalled := true }
        (s.env.handlerStall = some before.length →
          phase3 now s =
            .next { s with link := { s.link with qAck := after, stalled := true }, trace := seen, env := called }) ∧
        (s.env.handlerStall = some (before.length + 1) → a.seq = h.seq → a.kind = .positiveAck → h.kind ≠ .request →
          phase3 now s = .next { s with link := ended, trace := seen ++ [.event (.onPacketSent h)], env := called }) ∧
        (s.env.handlerStall = some (before.length + 1) → a.seq = h.seq → a.kind = .negativeAck →
          s.link.nackCnt + 1 > s.link.cfg.maxRetx →
          phase3 now s = .next { s with link := ended, trace := seen ++ [.event (.onNackFail h)], env := called })) ∧
      ((∀ x ∈ s.link.qAck, x.seq ≠ h.seq) → s.link.cfg.ackTimeout ≤ waited s.link.tSend →
        let seen := s.trace ++ observed s.link.qAck ++ [.event (.onAckNackObserved true none)]
        (s.env.handlerStall = some s.link.qAck.length →
          phase3 now s = .next { s with link := { s.link with qAck := [], stalled := true }, trace := seen, env := called }) ∧
        (s.env.handlerStall = some (s.link.qAck.length + 1) → s.link.ackToCnt + 1 > s.link.cfg.maxRetx →
          phase3 now s =
            .next { s with
              link := { s.link with qAck := [], qOut := q, ackToCnt := 0, nackCnt := 0, stalled := true }
              trace := seen ++ [.event (.onAckTimeout h)]
              env := called }))) ∧
    (s.link.qOut = h :: q → s.link.sendState = .waitingForResponse → s.env.handlerStall = some 0 →
      s.link.responseReceived = false → s.link.cfg.respTimeout ≤ waited s.link.tSend →
      phase3 now s =
        .next { s with
          link := { s.link with qOut := q, ackToCnt := 0, nackCnt := 0, stalled := true }
          trace := s.trace ++ [.event (.onResponseTimeout h)] })

/-- A retransmission writes the same bytes with the same sequence number (R291): once a head has been sent and its ack is waited for,
any later Sending of what then stands at the head writes the bytes of the first one, and going back to Sending leaves `Q_OUT` as it is.
What a transmission leaves in the packet is the CRC ENCODE computed (R192, its decision D53), and that changes neither bytes nor
header. -/
def Obligations.RetryWritesTheSameBytes : Prop :=
  (∀ (now : Nat) (s t : State) (h : Packet) (q : List Packet), s.linkOpen = true → s.link.sendState = .sending →
    s.link.qOut = h :: q → phase3 now s = .next t → t.link.sendState = .waitingForAck →
    ∃ w h' q', encodePacket h = some w ∧ (∃ out, t.trace = s.trace ++ .write w :: out) ∧
      t.link.qOut = h' :: q' ∧ h'.toHeader = h.toHeader ∧
      ∀ (now' : Nat) (s' : State) (r : List Packet), s'.linkOpen = true → s'.link.sendState = .sending →
        s'.link.qOut = h' :: r → s'.link.requestOpen = false →
        ∃ t' out, phase3 now' s' = .next t' ∧ t'.trace = s'.trace ++ .write w :: out) ∧
  (∀ (now : Nat) (s t : State), s.link.sendState = .waitingForAck → phase3 now s = .next t → t.link.sendState = .sending →
    t.link.qOut = s.link.qOut) ∧
  ∀ p : Packet, encodePacket (withCrc p) = encodePacket p ∧ (withCrc p).toHeader = p.toHeader ∧
    withCrc (withCrc p) = withCrc p ∧
    ∀ (m : Message) (u : List Byte), isMessage p.kind = true → p.msg = some m → unstuffed p = some u →
      withCrc p = { p with crc := some (crc16 u (u.length - 2)) }

/-! ### The machine -/

/-- A step runs the instruction that the first transaction decodes to, in its environment (log 1). -/
def Obligations.StepRunsTheDecodedInstruction : Prop :=
  ∀ (s : State) (t : Transaction) (rest : List Transaction) (i : Instr) (bs : List Byte),
    s.inputs = t :: rest → decodeAt t.level t.bytes = .ok (i, bs) →
    step s = exec i { s with inputs := rest, env := t.env }

/-- An operation code that is not in the table of R123 is refused with BAD_OP (how bytes reach the block: log 1). -/
def Obligations.UnknownOperationCodeIsRefused : Prop :=
  ∀ (s : State) (t : Transaction) (rest : List Transaction) (op : Byte) (bs : List Byte),
    s.inputs = t :: rest → t.level = .operation → t.bytes = op :: bs →
    op ∉ ([0x01, 0x02, 0x03, 0x04, 0x05, 0x06, 0x10, 0x11, 0x12, 0x13, 0x14] : List Byte) →
    step s = .next ({ s with inputs := rest, env := t.env }.refuse .badOp)

/-- Every step keeps the invariant of 10_state.md: buffer form and bound (R40), single flight (R57), queue contents (R58), retry counters
and configuration in range, held values legal, queues within `Q_DEPTH` (R84). R40, R57 and R58 mark these as derived. -/
def Obligations.StepKeepsTheLinkInvariant : Prop :=
  ∀ s t : State, Inv s → step s = .next t → Inv t

/-- The numbers the spec gives its named values: kinds (R118), states (R31), refusal reasons (R352), events (R360), error classes
(R350). The numbers of the kinds 1, 3 and 4 are the spec's decision D5, those of the states D40, those of the refusal reasons, events and
error classes D43. -/
def Obligations.CodesAreTheSpecs : Prop :=
  ([Kind.data, .reserved, .positiveAck, .negativeAck, .request, .undefined5, .undefined6, .undefined7].map kindCode =
    [0, 1, 2, 3, 4, 5, 6, 7]) ∧
  ([SendState.idle, .sending, .waitingForAck, .waitingForResponse].map sendStateCode = [0, 1, 2, 3]) ∧
  ([RefuseReason.notOpen, .alreadyOpen, .transportInit, .badKind, .tooLong, .queueFull, .badReg, .badValue, .badOp].map refuseCode =
    [1, 2, 3, 4, 5, 6, 7, 8, 9]) ∧
  (∀ (p : Packet) (q : Option Packet) (b : Bool) (w : List Byte),
    [Event.onPacketSent p, .onPacketReceived p, .onAckTimeout p, .onNackFail p, .onResponseTimeout p, .onAckNackObserved b q,
      .onRawBytesSent w].map eventCode = [1, 2, 3, 4, 5, 6, 7]) ∧
  ([ErrorClass.framingError, .checksumError, .protocolTimeout, .retryExhausted, .transportInitError].map errorClassCode =
    [1, 2, 3, 4, 5]) ∧
  ∀ k : Kind, kindOf (kindCode k) = k

/-- The invariant holds at reset (on the model's closed state) and of every link OPEN creates (the closed state's values: log 5). -/
def Obligations.OpenedLinkMeetsTheInvariant : Prop :=
  Inv State.reset ∧ ∀ (p : Params) (a : Byte) (x y z : Nat), LinkInv p (Link.afterOpen a x y z)

/-- From a good state a TICK completes, whatever other agents do inside it, and whether or not the write and the handlers return (R251,
R292: there is no terminal state; the environment's answers: log 9, log 11). -/
def Obligations.TickAlwaysCompletes : Prop :=
  ∀ (now : Nat) (s : State), Inv s → running s = true → clockForward s now = true → ∃ t, exec (.tick now) s = .next t

/-- From a good state no step faults, in any environment (R351: no error stops the block; the environment's answers: log 11). -/
def Obligations.GoodStatesNeverFault : Prop :=
  ∀ (s : State) (f : Fault), Inv s → step s ≠ .fault f

/-- No step changes the build-time parameters (R9, R405; they are fields of the state, log 8). -/
def Obligations.ParametersNeverChange : Prop :=
  ∀ s t : State, step s = .next t → t.params = s.params

/-- The output trace only grows: what has been fired or written is never taken back (R368; the trace is the model's record, log 16). -/
def Obligations.OutputTraceOnlyGrows : Prop :=
  ∀ s t : State, step s = .next t → ∃ out, t.trace = s.trace ++ out

/-- The worker never touches what is the receive path's or the host's: with no other agent's step inside it, a TICK leaves `S.rx_buf`,
`S.stop` and `S.link_open` as they were (R94, R378; undisturbed: log 9). -/
def Obligations.WorkerLeavesOthersRegisters : Prop :=
  ∀ (now : Nat) (s t : State), undisturbed s = true → exec (.tick now) s = .next t →
    t.link.rxBuf = s.link.rxBuf ∧ t.link.stop = s.link.stop ∧ t.linkOpen = s.linkOpen

/-- Only the packet in flight is ever written: every write of any instruction, whatever other agents do inside it, is made by a TICK of
an open link in Sending, and is the wire form of the head of `Q_OUT` (R57, R94). -/
def Obligations.OnlyTheHeadIsWritten : Prop :=
  ∀ (i : Instr) (s t : State) (w : List Byte), Inv s → exec i s = .next t → Output.write w ∈ t.trace.drop s.trace.length →
    (∃ now, i = .tick now) ∧ s.linkOpen = true ∧ s.link.sendState = .sending ∧
    ∃ h q, s.link.qOut = h :: q ∧ encodePacket h = some w
end

