-- ==== Sys2Proof/Laws/Codec.lean ====
section
/-! SUPPORT. The fields of a frame read what was written (R86, R113, R114, R120), and each reader of operands reads what its writer
wrote (log 3). -/

namespace Sys2Proof.Machine
open Sys2Proof

/-! ### Fields -/

theorem parityField_headerByte0 : ∀ (p : BitVec 2) (v : BitVec 6), parityField (headerByte0 p v) = p := by decide +kernel

theorem versionField_headerByte0 : ∀ (p : BitVec 2) (v : BitVec 6), versionField (headerByte0 p v) = v := by decide +kernel

theorem kindField_headerByte1 (e : Bool) (p : BitVec 4) (k : Kind) : kindField (headerByte1 e p k) = k := by
  revert p; cases e <;> cases k <;> decide +kernel

theorem encryptedField_headerByte1 (e : Bool) (p : BitVec 4) (k : Kind) : encryptedField (headerByte1 e p k) = e := by
  revert p; cases e <;> cases k <;> decide +kernel

theorem portField_headerByte1 (e : Bool) (p : BitVec 4) (k : Kind) : portField (headerByte1 e p k) = p := by
  revert p; cases e <;> cases k <;> decide +kernel

theorem kindCode_kindOf : ∀ v : BitVec 3, kindCode (kindOf v) = v := by decide

/-- A 16-bit value is its two bytes, low byte first (R86). -/
theorem word16_low_high (w : Word16) : word16 (lowByte w) (highByte w) = w := by
  apply BitVec.eq_of_getLsbD_eq; intro i hi
  by_cases h8 : i < 8
  · simp [word16, lowByte, highByte, h8, hi]
  · have : 8 + (i - 8) = i := by omega
    have : i - 8 < 8 := by omega
    simp [word16, lowByte, highByte, *]

theorem parseHeader_headerBytes (h : Header) (r : List Byte) : parseHeader (headerBytes h ++ r) = h := by
  cases h
  simp [parseHeader, headerBytes, byteAt, parityField_headerByte0, versionField_headerByte0, kindField_headerByte1,
    encryptedField_headerByte1, portField_headerByte1]

theorem length_messageBody (h : Header) (m : Message) (payload : List Byte) :
    (messageBody h m payload).length = 10 + payload.length := by
  simp [messageBody, headerBytes]; omega

theorem frameContent_wireForm (u : List Byte) : frameContent (wireForm u) = stuff u := by simp [frameContent, wireForm]

theorem length_wireForm (u : List Byte) : (wireForm u).length = (stuff u).length + 2 := by simp [wireForm]

/-- The packet DECODE makes of an unstuffed form has the header of its first five bytes (R201). -/
theorem parsePacket_toHeader (u : List Byte) : (parsePacket u).toHeader = parseHeader u := by
  simp only [parsePacket]; split <;> try split
  all_goals rfl

/-- ENCODE's domain: the message kinds (the message is there, or a free value, log 14) and the control kinds (R195). -/
theorem unstuffed_cases {p : Packet} {u : List Byte} (h : unstuffed p = some u) :
    (isMessage p.kind = true ∧
      u = messageBody p.toHeader (messageOf p) p.payload ++ crcBytes (messageCrc p.toHeader (messageOf p) p.payload)) ∨
    (isMessage p.kind = false ∧ isControl p.kind = true ∧ u = headerBytes p.toHeader) := by
  unfold unstuffed at h
  repeat' split at h
  all_goals cases h
  · exact .inl ⟨by assumption, rfl⟩
  · exact .inr ⟨by simp_all, by assumption, rfl⟩

@[simp] theorem messageOf_of_some {p : Packet} {m : Message} (h : p.msg = some m) : messageOf p = m := by simp [messageOf, h]

theorem lengthField_of_le {n : Nat} (h : n ≤ 65535) : lengthField n = BitVec.ofNat 16 n := by simp [lengthField, h]

/-- The length field holds the length of any payload R42 allows (R192). -/
theorem toNat_lengthField {n : Nat} (h : n ≤ 65535) : (lengthField n).toNat = n := by
  rw [lengthField_of_le h, BitVec.toNat_ofNat]; omega

theorem withCrc_kind (p : Packet) : (withCrc p).kind = p.kind := by
  unfold withCrc; split <;> try split
  all_goals rfl

/-- CRC16 over the whole of a buffer is the fold of the update over its bytes (R151). -/
theorem crc16_length (buf : List Byte) : crc16 buf buf.length = buf.foldl crcUpdate 0xFFFF := by simp [crc16]

end Sys2Proof.Machine

namespace Sys2Proof
open Sys2Proof.Machine

/-! ### Readers and writers -/

theorem readNat_writeNatFuel (f n : Nat) (h : n ≤ f) (r : List Byte) : readNat (writeNatFuel f n ++ r) = .ok (n, r) := by
  induction f generalizing n with
  | zero => obtain rfl : n = 0 := by omega
            rfl
  | succ f ih =>
    unfold writeNatFuel
    by_cases hn : n < 128
    · have h1 : n % 256 = n := by omega
      simp [hn, readNat, h1]
    · have h1 : (n % 128 + 128) % 256 = n % 128 + 128 := by omega
      simp only [hn, if_false, List.cons_append, readNat, BitVec.toNat_ofNat, Nat.reducePow, h1]
      rw [if_neg (by omega), ih (n / 128) (by omega)]
      simp; omega

theorem readNat_writeNat (n : Nat) (r : List Byte) : readNat (writeNat n ++ r) = .ok (n, r) :=
  readNat_writeNatFuel n n (Nat.le_refl _) r

theorem readBytes_writeBytes (x r : List Byte) : readBytes (writeBytes x ++ r) = .ok (x, r) := by
  simp [readBytes, writeBytes, List.append_assoc, readNat_writeNat]

theorem readMessage_writeMessage (m : Message) (r : List Byte) : readMessage (writeMessage m ++ r) = .ok (m, r) := by
  simp [readMessage, writeMessage, word16_low_high]

theorem readWord16_crcBytes (c : Word16) (r : List Byte) : readWord16 (crcBytes c ++ r) = .ok (c, r) := by
  simp [readWord16, crcBytes, word16_low_high]

theorem readTemplate_writeTemplate (t : Template) (r : List Byte) : readTemplate (writeTemplate t ++ r) = .ok (t, r) := by
  simp [readTemplate, writeTemplate, parityField_headerByte0, versionField_headerByte0, kindField_headerByte1,
    encryptedField_headerByte1, portField_headerByte1, readMessage_writeMessage, readBytes_writeBytes]

theorem readReg_register (g : BitVec 3) (r : List Byte) : readReg (g.zeroExtend 8 :: r) = .ok (g, r) := by
  have h : ∀ g : BitVec 3, (g.zeroExtend 8).toNat < 8 ∧ (g.zeroExtend 8).extractLsb' 0 3 = g := by decide
  simp only [readReg, (h g).1, (h g).2, if_true]

theorem readPacket_writePacket (p : Packet) (r : List Byte) : readPacket (writePacket p ++ r) = .ok (p, r) := by
  obtain ⟨h, m, payload, c, f⟩ := p
  have hh := parseHeader_headerBytes h []
  simp only [headerBytes, List.append_nil] at hh
  cases m <;> cases c <;> cases f <;>
    simp [writePacket, headerBytes, packetFlags, readPacket, readUnless, writeOpt, readMessage_writeMessage,
      readBytes_writeBytes, readWord16_crcBytes, hh]

end Sys2Proof
end

