-- ==== Sys2Proof/Laws/State.lean ====
section
/-! SUPPORT. One lemma per field for each named update of the state and of the link, so that no proof unfolds a record update. -/

namespace Sys2Proof.Machine
open Sys2Proof

/-! ### `mapLink` -/

@[simp] theorem State.mapLink_linkOpen (f : Link → Link) (s : State) : (s.mapLink f).linkOpen = s.linkOpen := rfl
@[simp] theorem State.mapLink_link (f : Link → Link) (s : State) : (s.mapLink f).link = f s.link := rfl
@[simp] theorem State.mapLink_params (f : Link → Link) (s : State) : (s.mapLink f).params = s.params := rfl
@[simp] theorem State.mapLink_trace (f : Link → Link) (s : State) : (s.mapLink f).trace = s.trace := rfl
@[simp] theorem State.mapLink_replies (f : Link → Link) (s : State) : (s.mapLink f).replies = s.replies := rfl
@[simp] theorem State.mapLink_inputs (f : Link → Link) (s : State) : (s.mapLink f).inputs = s.inputs := rfl
@[simp] theorem State.mapLink_env (f : Link → Link) (s : State) : (s.mapLink f).env = s.env := rfl
@[simp] theorem State.mapLink_freeCtr (f : Link → Link) (s : State) : (s.mapLink f).freeCtr = s.freeCtr := rfl

/-! ### `emit` -/

@[simp] theorem State.emit_linkOpen (o : Output) (s : State) : (s.emit o).linkOpen = s.linkOpen := rfl
@[simp] theorem State.emit_link (o : Output) (s : State) : (s.emit o).link = s.link := rfl
@[simp] theorem State.emit_params (o : Output) (s : State) : (s.emit o).params = s.params := rfl
@[simp] theorem State.emit_trace (o : Output) (s : State) : (s.emit o).trace = s.trace ++ [o] := rfl
@[simp] theorem State.emit_replies (o : Output) (s : State) : (s.emit o).replies = s.replies := rfl
@[simp] theorem State.emit_inputs (o : Output) (s : State) : (s.emit o).inputs = s.inputs := rfl
@[simp] theorem State.emit_env (o : Output) (s : State) : (s.emit o).env = s.env := rfl
@[simp] theorem State.emit_freeCtr (o : Output) (s : State) : (s.emit o).freeCtr = s.freeCtr := rfl

/-! ### `fire` -/

@[simp] theorem State.fire_linkOpen (e : Event) (s : State) : (s.fire e).linkOpen = s.linkOpen := rfl
@[simp] theorem State.fire_link (e : Event) (s : State) :
    (s.fire e).link = { s.link with stalled := s.link.stalled || s.env.stalls } := rfl
@[simp] theorem State.fire_params (e : Event) (s : State) : (s.fire e).params = s.params := rfl
@[simp] theorem State.fire_trace (e : Event) (s : State) : (s.fire e).trace = s.trace ++ [.event e] := rfl
@[simp] theorem State.fire_replies (e : Event) (s : State) : (s.fire e).replies = s.replies := rfl
@[simp] theorem State.fire_inputs (e : Event) (s : State) : (s.fire e).inputs = s.inputs := rfl
@[simp] theorem State.fire_env (e : Event) (s : State) : (s.fire e).env = s.env.afterCall := rfl
@[simp] theorem State.fire_freeCtr (e : Event) (s : State) : (s.fire e).freeCtr = s.freeCtr := rfl

/-! ### `reply` -/

@[simp] theorem State.reply_linkOpen (r : Reply) (s : State) : (s.reply r).linkOpen = s.linkOpen := rfl
@[simp] theorem State.reply_link (r : Reply) (s : State) : (s.reply r).link = s.link := rfl
@[simp] theorem State.reply_params (r : Reply) (s : State) : (s.reply r).params = s.params := rfl
@[simp] theorem State.reply_trace (r : Reply) (s : State) : (s.reply r).trace = s.trace := rfl
@[simp] theorem State.reply_replies (r : Reply) (s : State) : (s.reply r).replies = s.replies ++ [r] := rfl
@[simp] theorem State.reply_inputs (r : Reply) (s : State) : (s.reply r).inputs = s.inputs := rfl
@[simp] theorem State.reply_env (r : Reply) (s : State) : (s.reply r).env = s.env := rfl
@[simp] theorem State.reply_freeCtr (r : Reply) (s : State) : (s.reply r).freeCtr = s.freeCtr := rfl

/-! ### `refuse` -/

@[simp] theorem State.refuse_linkOpen (r : RefuseReason) (s : State) : (s.refuse r).linkOpen = s.linkOpen := rfl
@[simp] theorem State.refuse_link (r : RefuseReason) (s : State) : (s.refuse r).link = s.link := rfl
@[simp] theorem State.refuse_params (r : RefuseReason) (s : State) : (s.refuse r).params = s.params := rfl
@[simp] theorem State.refuse_trace (r : RefuseReason) (s : State) : (s.refuse r).trace = s.trace := rfl
@[simp] theorem State.refuse_replies (r : RefuseReason) (s : State) : (s.refuse r).replies = s.replies ++ [.refused r] := rfl
@[simp] theorem State.refuse_inputs (r : RefuseReason) (s : State) : (s.refuse r).inputs = s.inputs := rfl
@[simp] theorem State.refuse_env (r : RefuseReason) (s : State) : (s.refuse r).env = s.env := rfl
@[simp] theorem State.refuse_freeCtr (r : RefuseReason) (s : State) : (s.refuse r).freeCtr = s.freeCtr := rfl

/-! ### `placeFirst` -/

@[simp] theorem State.placeFirst_linkOpen (t : Transaction) (s : State) : (s.placeFirst t).linkOpen = s.linkOpen := rfl
@[simp] theorem State.placeFirst_link (t : Transaction) (s : State) : (s.placeFirst t).link = s.link := rfl
@[simp] theorem State.placeFirst_params (t : Transaction) (s : State) : (s.placeFirst t).params = s.params := rfl
@[simp] theorem State.placeFirst_trace (t : Transaction) (s : State) : (s.placeFirst t).trace = s.trace := rfl
@[simp] theorem State.placeFirst_replies (t : Transaction) (s : State) : (s.placeFirst t).replies = s.replies := rfl
@[simp] theorem State.placeFirst_inputs (t : Transaction) (s : State) : (s.placeFirst t).inputs = t :: s.inputs := rfl
@[simp] theorem State.placeFirst_env (t : Transaction) (s : State) : (s.placeFirst t).env = s.env := rfl
@[simp] theorem State.placeFirst_freeCtr (t : Transaction) (s : State) : (s.placeFirst t).freeCtr = s.freeCtr := rfl

/-! ### `takeInput` -/

@[simp] theorem takeInput_linkOpen (t : Transaction) (rest : List Transaction) (s : State) : (takeInput t rest s).linkOpen = s.linkOpen := rfl
@[simp] theorem takeInput_link (t : Transaction) (rest : List Transaction) (s : State) : (takeInput t rest s).link = s.link := rfl
@[simp] theorem takeInput_params (t : Transaction) (rest : List Transaction) (s : State) : (takeInput t rest s).params = s.params := rfl
@[simp] theorem takeInput_trace (t : Transaction) (rest : List Transaction) (s : State) : (takeInput t rest s).trace = s.trace := rfl
@[simp] theorem takeInput_replies (t : Transaction) (rest : List Transaction) (s : State) : (takeInput t rest s).replies = s.replies := rfl
@[simp] theorem takeInput_inputs (t : Transaction) (rest : List Transaction) (s : State) : (takeInput t rest s).inputs = rest := rfl
@[simp] theorem takeInput_env (t : Transaction) (rest : List Transaction) (s : State) : (takeInput t rest s).env = t.env := rfl
@[simp] theorem takeInput_freeCtr (t : Transaction) (rest : List Transaction) (s : State) : (takeInput t rest s).freeCtr = s.freeCtr := rfl

/-! ### `closeBegin` -/

@[simp] theorem closeBegin_linkOpen (s : State) : (closeBegin s).linkOpen = s.linkOpen := rfl
@[simp] theorem closeBegin_link (s : State) : (closeBegin s).link = { s.link with stop := true } := rfl
@[simp] theorem closeBegin_params (s : State) : (closeBegin s).params = s.params := rfl
@[simp] theorem closeBegin_trace (s : State) : (closeBegin s).trace = s.trace := rfl
@[simp] theorem closeBegin_replies (s : State) : (closeBegin s).replies = s.replies := rfl
@[simp] theorem closeBegin_inputs (s : State) : (closeBegin s).inputs = s.inputs := rfl
@[simp] theorem closeBegin_env (s : State) : (closeBegin s).env = s.env := rfl
@[simp] theorem closeBegin_freeCtr (s : State) : (closeBegin s).freeCtr = s.freeCtr := rfl

/-! ### `closeFinish` -/

@[simp] theorem closeFinish_linkOpen (s : State) : (closeFinish s).linkOpen = false := rfl
@[simp] theorem closeFinish_link (s : State) : (closeFinish s).link = Config.freeLink s.freeCtr := rfl
@[simp] theorem closeFinish_params (s : State) : (closeFinish s).params = s.params := rfl
@[simp] theorem closeFinish_trace (s : State) : (closeFinish s).trace = s.trace ++ [.transportClose] := rfl
@[simp] theorem closeFinish_replies (s : State) : (closeFinish s).replies = s.replies ++ [.accepted] := rfl
@[simp] theorem closeFinish_inputs (s : State) : (closeFinish s).inputs = s.inputs := rfl
@[simp] theorem closeFinish_env (s : State) : (closeFinish s).env = s.env := rfl
@[simp] theorem closeFinish_freeCtr (s : State) : (closeFinish s).freeCtr = s.freeCtr + 1 := rfl

/-! ### The environment, and a worker that stands still -/

@[simp] theorem Env.afterCall_gaps (v : Env) : v.afterCall.gaps = v.gaps := rfl
@[simp] theorem Env.afterCall_writeReturns (v : Env) : v.afterCall.writeReturns = v.writeReturns := rfl
@[simp] theorem Env.afterCall_transportOpens (v : Env) : v.afterCall.transportOpens = v.transportOpens := rfl

theorem Env.afterCall_of_returns {v : Env} (h : v.handlerStall = none) : v.afterCall = v := by
  cases v; simp only at h; subst h; rfl

theorem Env.stalls_of_returns {v : Env} (h : v.handlerStall = none) : v.stalls = false := by simp [Env.stalls, h]

/-- Where every handler returns, firing an event only adds it to the trace (R368). -/
theorem State.fire_of_returns {s : State} (e : Event) (h : s.env.handlerStall = none) : s.fire e = s.emit (.event e) := by
  simp [State.fire, State.emit, Env.afterCall_of_returns h, Env.stalls_of_returns h]

theorem unlessStalled_of_ready {f : State → State} {s : State} (h : s.link.stalled = false) : unlessStalled f s = f s := by
  simp [unlessStalled, h]

theorem unlessStalled_of_stalled {f : State → State} {s : State} (h : s.link.stalled = true) : unlessStalled f s = s := by
  simp [unlessStalled, h]

/-- The worker goes on, or it stands still where it is. -/
theorem unlessStalled_cases (f : State → State) (s : State) :
    (s.link.stalled = true ∧ unlessStalled f s = s) ∨ (s.link.stalled = false ∧ unlessStalled f s = f s) := by
  cases h : s.link.stalled
  · exact .inr ⟨rfl, unlessStalled_of_ready h⟩
  · exact .inl ⟨rfl, unlessStalled_of_stalled h⟩

/-! ### `dropHead` -/

@[simp] theorem dropHead_linkOpen (s : State) : (dropHead s).linkOpen = s.linkOpen := rfl
@[simp] theorem dropHead_link (s : State) : (dropHead s).link = goto .idle (popHead s.link) := rfl
@[simp] theorem dropHead_params (s : State) : (dropHead s).params = s.params := rfl
@[simp] theorem dropHead_trace (s : State) : (dropHead s).trace = s.trace := rfl
@[simp] theorem dropHead_replies (s : State) : (dropHead s).replies = s.replies := rfl
@[simp] theorem dropHead_inputs (s : State) : (dropHead s).inputs = s.inputs := rfl
@[simp] theorem dropHead_env (s : State) : (dropHead s).env = s.env := rfl
@[simp] theorem dropHead_freeCtr (s : State) : (dropHead s).freeCtr = s.freeCtr := rfl

/-! ### `writeHead` -/

@[simp] theorem writeHead_linkOpen (w : List Byte) (s : State) : (writeHead w s).linkOpen = s.linkOpen := rfl
@[simp] theorem writeHead_link (w : List Byte) (s : State) : (writeHead w s).link = stampHead s.link := rfl
@[simp] theorem writeHead_params (w : List Byte) (s : State) : (writeHead w s).params = s.params := rfl
@[simp] theorem writeHead_trace (w : List Byte) (s : State) : (writeHead w s).trace = s.trace ++ [.write w] := rfl
@[simp] theorem writeHead_replies (w : List Byte) (s : State) : (writeHead w s).replies = s.replies := rfl
@[simp] theorem writeHead_inputs (w : List Byte) (s : State) : (writeHead w s).inputs = s.inputs := rfl
@[simp] theorem writeHead_env (w : List Byte) (s : State) : (writeHead w s).env = s.env := rfl
@[simp] theorem writeHead_freeCtr (w : List Byte) (s : State) : (writeHead w s).freeCtr = s.freeCtr := rfl

/-! ### `takeAck` -/

@[simp] theorem takeAck_linkOpen (a : Packet) (rest : List Packet) (s : State) : (takeAck a rest s).linkOpen = s.linkOpen := rfl
@[simp] theorem takeAck_link (a : Packet) (rest : List Packet) (s : State) : (takeAck a rest s).link =
    { s.link with qAck := rest, stalled := s.link.stalled || s.env.stalls } := rfl
@[simp] theorem takeAck_params (a : Packet) (rest : List Packet) (s : State) : (takeAck a rest s).params = s.params := rfl
@[simp] theorem takeAck_trace (a : Packet) (rest : List Packet) (s : State) : (takeAck a rest s).trace =
    s.trace ++ [.event (.onAckNackObserved false (some a))] := rfl
@[simp] theorem takeAck_replies (a : Packet) (rest : List Packet) (s : State) : (takeAck a rest s).replies = s.replies := rfl
@[simp] theorem takeAck_inputs (a : Packet) (rest : List Packet) (s : State) : (takeAck a rest s).inputs = s.inputs := rfl
@[simp] theorem takeAck_env (a : Packet) (rest : List Packet) (s : State) : (takeAck a rest s).env = s.env.afterCall := rfl
@[simp] theorem takeAck_freeCtr (a : Packet) (rest : List Packet) (s : State) : (takeAck a rest s).freeCtr = s.freeCtr := rfl

/-! ### `stall` -/

@[simp] theorem stall_stop (l : Link) : (stall l).stop = l.stop := rfl
@[simp] theorem stall_sendState (l : Link) : (stall l).sendState = l.sendState := rfl
@[simp] theorem stall_seqCtr (l : Link) : (stall l).seqCtr = l.seqCtr := rfl
@[simp] theorem stall_ackToCnt (l : Link) : (stall l).ackToCnt = l.ackToCnt := rfl
@[simp] theorem stall_nackCnt (l : Link) : (stall l).nackCnt = l.nackCnt := rfl
@[simp] theorem stall_requestOpen (l : Link) : (stall l).requestOpen = l.requestOpen := rfl
@[simp] theorem stall_tReq (l : Link) : (stall l).tReq = l.tReq := rfl
@[simp] theorem stall_responseReceived (l : Link) : (stall l).responseReceived = l.responseReceived := rfl
@[simp] theorem stall_lastAckSeq (l : Link) : (stall l).lastAckSeq = l.lastAckSeq := rfl
@[simp] theorem stall_tSend (l : Link) : (stall l).tSend = l.tSend := rfl
@[simp] theorem stall_rxBuf (l : Link) : (stall l).rxBuf = l.rxBuf := rfl
@[simp] theorem stall_qOut (l : Link) : (stall l).qOut = l.qOut := rfl
@[simp] theorem stall_qData (l : Link) : (stall l).qData = l.qData := rfl
@[simp] theorem stall_qAck (l : Link) : (stall l).qAck = l.qAck := rfl
@[simp] theorem stall_qRaw (l : Link) : (stall l).qRaw = l.qRaw := rfl
@[simp] theorem stall_cfg (l : Link) : (stall l).cfg = l.cfg := rfl
@[simp] theorem stall_pending (l : Link) : (stall l).pending = l.pending := rfl
@[simp] theorem stall_lastNow (l : Link) : (stall l).lastNow = l.lastNow := rfl
@[simp] theorem stall_stalled (l : Link) : (stall l).stalled = true := rfl

/-! ### `popHead` -/

@[simp] theorem popHead_stop (l : Link) : (popHead l).stop = l.stop := rfl
@[simp] theorem popHead_sendState (l : Link) : (popHead l).sendState = l.sendState := rfl
@[simp] theorem popHead_seqCtr (l : Link) : (popHead l).seqCtr = l.seqCtr := rfl
@[simp] theorem popHead_ackToCnt (l : Link) : (popHead l).ackToCnt = 0 := rfl
@[simp] theorem popHead_nackCnt (l : Link) : (popHead l).nackCnt = 0 := rfl
@[simp] theorem popHead_requestOpen (l : Link) : (popHead l).requestOpen = l.requestOpen := rfl
@[simp] theorem popHead_tReq (l : Link) : (popHead l).tReq = l.tReq := rfl
@[simp] theorem popHead_responseReceived (l : Link) : (popHead l).responseReceived = l.responseReceived := rfl
@[simp] theorem popHead_lastAckSeq (l : Link) : (popHead l).lastAckSeq = l.lastAckSeq := rfl
@[simp] theorem popHead_tSend (l : Link) : (popHead l).tSend = l.tSend := rfl
@[simp] theorem popHead_rxBuf (l : Link) : (popHead l).rxBuf = l.rxBuf := rfl
@[simp] theorem popHead_qOut (l : Link) : (popHead l).qOut = l.qOut.tail := rfl
@[simp] theorem popHead_qData (l : Link) : (popHead l).qData = l.qData := rfl
@[simp] theorem popHead_qAck (l : Link) : (popHead l).qAck = l.qAck := rfl
@[simp] theorem popHead_qRaw (l : Link) : (popHead l).qRaw = l.qRaw := rfl
@[simp] theorem popHead_cfg (l : Link) : (popHead l).cfg = l.cfg := rfl
@[simp] theorem popHead_pending (l : Link) : (popHead l).pending = l.pending := rfl
@[simp] theorem popHead_lastNow (l : Link) : (popHead l).lastNow = l.lastNow := rfl
@[simp] theorem popHead_stalled (l : Link) : (popHead l).stalled = l.stalled := rfl

/-! ### `goto` -/

@[simp] theorem goto_stop (x : SendState) (l : Link) : (goto x l).stop = l.stop := rfl
@[simp] theorem goto_sendState (x : SendState) (l : Link) : (goto x l).sendState = x := rfl
@[simp] theorem goto_seqCtr (x : SendState) (l : Link) : (goto x l).seqCtr = l.seqCtr := rfl
@[simp] theorem goto_ackToCnt (x : SendState) (l : Link) : (goto x l).ackToCnt = l.ackToCnt := rfl
@[simp] theorem goto_nackCnt (x : SendState) (l : Link) : (goto x l).nackCnt = l.nackCnt := rfl
@[simp] theorem goto_requestOpen (x : SendState) (l : Link) : (goto x l).requestOpen = l.requestOpen := rfl
@[simp] theorem goto_tReq (x : SendState) (l : Link) : (goto x l).tReq = l.tReq := rfl
@[simp] theorem goto_responseReceived (x : SendState) (l : Link) : (goto x l).responseReceived = l.responseReceived := rfl
@[simp] theorem goto_lastAckSeq (x : SendState) (l : Link) : (goto x l).lastAckSeq = l.lastAckSeq := rfl
@[simp] theorem goto_tSend (x : SendState) (l : Link) : (goto x l).tSend = l.tSend := rfl
@[simp] theorem goto_rxBuf (x : SendState) (l : Link) : (goto x l).rxBuf = l.rxBuf := rfl
@[simp] theorem goto_qOut (x : SendState) (l : Link) : (goto x l).qOut = l.qOut := rfl
@[simp] theorem goto_qData (x : SendState) (l : Link) : (goto x l).qData = l.qData := rfl
@[simp] theorem goto_qAck (x : SendState) (l : Link) : (goto x l).qAck = l.qAck := rfl
@[simp] theorem goto_qRaw (x : SendState) (l : Link) : (goto x l).qRaw = l.qRaw := rfl
@[simp] theorem goto_cfg (x : SendState) (l : Link) : (goto x l).cfg = l.cfg := rfl
@[simp] theorem goto_pending (x : SendState) (l : Link) : (goto x l).pending = l.pending := rfl
@[simp] theorem goto_lastNow (x : SendState) (l : Link) : (goto x l).lastNow = l.lastNow := rfl
@[simp] theorem goto_stalled (x : SendState) (l : Link) : (goto x l).stalled = l.stalled := rfl

/-! ### `resetTrackers` -/

@[simp] theorem resetTrackers_stop (l : Link) : (resetTrackers l).stop = l.stop := rfl
@[simp] theorem resetTrackers_sendState (l : Link) : (resetTrackers l).sendState = l.sendState := rfl
@[simp] theorem resetTrackers_seqCtr (l : Link) : (resetTrackers l).seqCtr = 0 := rfl
@[simp] theorem resetTrackers_ackToCnt (l : Link) : (resetTrackers l).ackToCnt = l.ackToCnt := rfl
@[simp] theorem resetTrackers_nackCnt (l : Link) : (resetTrackers l).nackCnt = l.nackCnt := rfl
@[simp] theorem resetTrackers_requestOpen (l : Link) : (resetTrackers l).requestOpen = l.requestOpen := rfl
@[simp] theorem resetTrackers_tReq (l : Link) : (resetTrackers l).tReq = l.tReq := rfl
@[simp] theorem resetTrackers_responseReceived (l : Link) : (resetTrackers l).responseReceived = l.responseReceived := rfl
@[simp] theorem resetTrackers_lastAckSeq (l : Link) : (resetTrackers l).lastAckSeq = none := rfl
@[simp] theorem resetTrackers_tSend (l : Link) : (resetTrackers l).tSend = l.tSend := rfl
@[simp] theorem resetTrackers_rxBuf (l : Link) : (resetTrackers l).rxBuf = l.rxBuf := rfl
@[simp] theorem resetTrackers_qOut (l : Link) : (resetTrackers l).qOut = l.qOut := rfl
@[simp] theorem resetTrackers_qData (l : Link) : (resetTrackers l).qData = l.qData := rfl
@[simp] theorem resetTrackers_qAck (l : Link) : (resetTrackers l).qAck = l.qAck := rfl
@[simp] theorem resetTrackers_qRaw (l : Link) : (resetTrackers l).qRaw = l.qRaw := rfl
@[simp] theorem resetTrackers_cfg (l : Link) : (resetTrackers l).cfg = l.cfg := rfl
@[simp] theorem resetTrackers_pending (l : Link) : (resetTrackers l).pending = l.pending := rfl
@[simp] theorem resetTrackers_lastNow (l : Link) : (resetTrackers l).lastNow = l.lastNow := rfl
@[simp] theorem resetTrackers_stalled (l : Link) : (resetTrackers l).stalled = l.stalled := rfl

/-! ### `setReg` -/

@[simp] theorem setReg_stop (r : CfgReg) (v : Nat) (l : Link) : (setReg r v l).stop = l.stop := rfl
@[simp] theorem setReg_sendState (r : CfgReg) (v : Nat) (l : Link) : (setReg r v l).sendState = l.sendState := rfl
@[simp] theorem setReg_seqCtr (r : CfgReg) (v : Nat) (l : Link) : (setReg r v l).seqCtr = l.seqCtr := rfl
@[simp] theorem setReg_ackToCnt (r : CfgReg) (v : Nat) (l : Link) : (setReg r v l).ackToCnt = l.ackToCnt := rfl
@[simp] theorem setReg_nackCnt (r : CfgReg) (v : Nat) (l : Link) : (setReg r v l).nackCnt = l.nackCnt := rfl
@[simp] theorem setReg_requestOpen (r : CfgReg) (v : Nat) (l : Link) : (setReg r v l).requestOpen = l.requestOpen := rfl
@[simp] theorem setReg_tReq (r : CfgReg) (v : Nat) (l : Link) : (setReg r v l).tReq = l.tReq := rfl
@[simp] theorem setReg_responseReceived (r : CfgReg) (v : Nat) (l : Link) : (setReg r v l).responseReceived = l.responseReceived := rfl
@[simp] theorem setReg_lastAckSeq (r : CfgReg) (v : Nat) (l : Link) : (setReg r v l).lastAckSeq = l.lastAckSeq := rfl
@[simp] theorem setReg_tSend (r : CfgReg) (v : Nat) (l : Link) : (setReg r v l).tSend = l.tSend := rfl
@[simp] theorem setReg_rxBuf (r : CfgReg) (v : Nat) (l : Link) : (setReg r v l).rxBuf = l.rxBuf := rfl
@[simp] theorem setReg_qOut (r : CfgReg) (v : Nat) (l : Link) : (setReg r v l).qOut = l.qOut := rfl
@[simp] theorem setReg_qData (r : CfgReg) (v : Nat) (l : Link) : (setReg r v l).qData = l.qData := rfl
@[simp] theorem setReg_qAck (r : CfgReg) (v : Nat) (l : Link) : (setReg r v l).qAck = l.qAck := rfl
@[simp] theorem setReg_qRaw (r : CfgReg) (v : Nat) (l : Link) : (setReg r v l).qRaw = l.qRaw := rfl
@[simp] theorem setReg_cfg (r : CfgReg) (v : Nat) (l : Link) : (setReg r v l).cfg = writeReg l.cfg r v := rfl
@[simp] theorem setReg_pending (r : CfgReg) (v : Nat) (l : Link) : (setReg r v l).pending = l.pending := rfl
@[simp] theorem setReg_lastNow (r : CfgReg) (v : Nat) (l : Link) : (setReg r v l).lastNow = l.lastNow := rfl
@[simp] theorem setReg_stalled (r : CfgReg) (v : Nat) (l : Link) : (setReg r v l).stalled = l.stalled := rfl

/-! ### `countNack` -/

@[simp] theorem countNack_stop (l : Link) : (countNack l).stop = l.stop := rfl
@[simp] theorem countNack_sendState (l : Link) : (countNack l).sendState = l.sendState := rfl
@[simp] theorem countNack_seqCtr (l : Link) : (countNack l).seqCtr = l.seqCtr := rfl
@[simp] theorem countNack_ackToCnt (l : Link) : (countNack l).ackToCnt = 0 := rfl
@[simp] theorem countNack_nackCnt (l : Link) : (countNack l).nackCnt = l.nackCnt + 1 := rfl
@[simp] theorem countNack_requestOpen (l : Link) : (countNack l).requestOpen = l.requestOpen := rfl
@[simp] theorem countNack_tReq (l : Link) : (countNack l).tReq = l.tReq := rfl
@[simp] theorem countNack_responseReceived (l : Link) : (countNack l).responseReceived = l.responseReceived := rfl
@[simp] theorem countNack_lastAckSeq (l : Link) : (countNack l).lastAckSeq = l.lastAckSeq := rfl
@[simp] theorem countNack_tSend (l : Link) : (countNack l).tSend = l.tSend := rfl
@[simp] theorem countNack_rxBuf (l : Link) : (countNack l).rxBuf = l.rxBuf := rfl
@[simp] theorem countNack_qOut (l : Link) : (countNack l).qOut = l.qOut := rfl
@[simp] theorem countNack_qData (l : Link) : (countNack l).qData = l.qData := rfl
@[simp] theorem countNack_qAck (l : Link) : (countNack l).qAck = l.qAck := rfl
@[simp] theorem countNack_qRaw (l : Link) : (countNack l).qRaw = l.qRaw := rfl
@[simp] theorem countNack_cfg (l : Link) : (countNack l).cfg = l.cfg := rfl
@[simp] theorem countNack_pending (l : Link) : (countNack l).pending = l.pending := rfl
@[simp] theorem countNack_lastNow (l : Link) : (countNack l).lastNow = l.lastNow := rfl
@[simp] theorem countNack_stalled (l : Link) : (countNack l).stalled = l.stalled := rfl

/-! ### `countTimeout` -/

@[simp] theorem countTimeout_stop (l : Link) : (countTimeout l).stop = l.stop := rfl
@[simp] theorem countTimeout_sendState (l : Link) : (countTimeout l).sendState = l.sendState := rfl
@[simp] theorem countTimeout_seqCtr (l : Link) : (countTimeout l).seqCtr = l.seqCtr := rfl
@[simp] theorem countTimeout_ackToCnt (l : Link) : (countTimeout l).ackToCnt = l.ackToCnt + 1 := rfl
@[simp] theorem countTimeout_nackCnt (l : Link) : (countTimeout l).nackCnt = l.nackCnt := rfl
@[simp] theorem countTimeout_requestOpen (l : Link) : (countTimeout l).requestOpen = l.requestOpen := rfl
@[simp] theorem countTimeout_tReq (l : Link) : (countTimeout l).tReq = l.tReq := rfl
@[simp] theorem countTimeout_responseReceived (l : Link) : (countTimeout l).responseReceived = l.responseReceived := rfl
@[simp] theorem countTimeout_lastAckSeq (l : Link) : (countTimeout l).lastAckSeq = l.lastAckSeq := rfl
@[simp] theorem countTimeout_tSend (l : Link) : (countTimeout l).tSend = l.tSend := rfl
@[simp] theorem countTimeout_rxBuf (l : Link) : (countTimeout l).rxBuf = l.rxBuf := rfl
@[simp] theorem countTimeout_qOut (l : Link) : (countTimeout l).qOut = l.qOut := rfl
@[simp] theorem countTimeout_qData (l : Link) : (countTimeout l).qData = l.qData := rfl
@[simp] theorem countTimeout_qAck (l : Link) : (countTimeout l).qAck = l.qAck := rfl
@[simp] theorem countTimeout_qRaw (l : Link) : (countTimeout l).qRaw = l.qRaw := rfl
@[simp] theorem countTimeout_cfg (l : Link) : (countTimeout l).cfg = l.cfg := rfl
@[simp] theorem countTimeout_pending (l : Link) : (countTimeout l).pending = l.pending := rfl
@[simp] theorem countTimeout_lastNow (l : Link) : (countTimeout l).lastNow = l.lastNow := rfl
@[simp] theorem countTimeout_stalled (l : Link) : (countTimeout l).stalled = l.stalled := rfl

/-! ### `scanStart` -/

@[simp] theorem scanStart_stop (b : Byte) (l : Link) : (scanStart b l).stop = l.stop := rfl
@[simp] theorem scanStart_sendState (b : Byte) (l : Link) : (scanStart b l).sendState = l.sendState := rfl
@[simp] theorem scanStart_seqCtr (b : Byte) (l : Link) : (scanStart b l).seqCtr = l.seqCtr := rfl
@[simp] theorem scanStart_ackToCnt (b : Byte) (l : Link) : (scanStart b l).ackToCnt = l.ackToCnt := rfl
@[simp] theorem scanStart_nackCnt (b : Byte) (l : Link) : (scanStart b l).nackCnt = l.nackCnt := rfl
@[simp] theorem scanStart_requestOpen (b : Byte) (l : Link) : (scanStart b l).requestOpen = l.requestOpen := rfl
@[simp] theorem scanStart_tReq (b : Byte) (l : Link) : (scanStart b l).tReq = l.tReq := rfl
@[simp] theorem scanStart_responseReceived (b : Byte) (l : Link) : (scanStart b l).responseReceived = l.responseReceived := rfl
@[simp] theorem scanStart_lastAckSeq (b : Byte) (l : Link) : (scanStart b l).lastAckSeq = l.lastAckSeq := rfl
@[simp] theorem scanStart_tSend (b : Byte) (l : Link) : (scanStart b l).tSend = l.tSend := rfl
@[simp] theorem scanStart_rxBuf (b : Byte) (l : Link) : (scanStart b l).rxBuf = if b = sohByte then [sohByte] else [] := rfl
@[simp] theorem scanStart_qOut (b : Byte) (l : Link) : (scanStart b l).qOut = l.qOut := rfl
@[simp] theorem scanStart_qData (b : Byte) (l : Link) : (scanStart b l).qData = l.qData := rfl
@[simp] theorem scanStart_qAck (b : Byte) (l : Link) : (scanStart b l).qAck = l.qAck := rfl
@[simp] theorem scanStart_qRaw (b : Byte) (l : Link) : (scanStart b l).qRaw = l.qRaw := rfl
@[simp] theorem scanStart_cfg (b : Byte) (l : Link) : (scanStart b l).cfg = l.cfg := rfl
@[simp] theorem scanStart_pending (b : Byte) (l : Link) : (scanStart b l).pending = l.pending := rfl
@[simp] theorem scanStart_lastNow (b : Byte) (l : Link) : (scanStart b l).lastNow = l.lastNow := rfl
@[simp] theorem scanStart_stalled (b : Byte) (l : Link) : (scanStart b l).stalled = l.stalled := rfl

/-! ### `queueAck` -/

@[simp] theorem queueAck_stop (prm : Params) (p : Packet) (l : Link) : (queueAck prm p l).stop = l.stop := rfl
@[simp] theorem queueAck_sendState (prm : Params) (p : Packet) (l : Link) : (queueAck prm p l).sendState = l.sendState := rfl
@[simp] theorem queueAck_seqCtr (prm : Params) (p : Packet) (l : Link) : (queueAck prm p l).seqCtr = l.seqCtr := rfl
@[simp] theorem queueAck_ackToCnt (prm : Params) (p : Packet) (l : Link) : (queueAck prm p l).ackToCnt = l.ackToCnt := rfl
@[simp] theorem queueAck_nackCnt (prm : Params) (p : Packet) (l : Link) : (queueAck prm p l).nackCnt = l.nackCnt := rfl
@[simp] theorem queueAck_requestOpen (prm : Params) (p : Packet) (l : Link) : (queueAck prm p l).requestOpen = l.requestOpen := rfl
@[simp] theorem queueAck_tReq (prm : Params) (p : Packet) (l : Link) : (queueAck prm p l).tReq = l.tReq := rfl
@[simp] theorem queueAck_responseReceived (prm : Params) (p : Packet) (l : Link) : (queueAck prm p l).responseReceived = l.responseReceived := rfl
@[simp] theorem queueAck_lastAckSeq (prm : Params) (p : Packet) (l : Link) : (queueAck prm p l).lastAckSeq = l.lastAckSeq := rfl
@[simp] theorem queueAck_tSend (prm : Params) (p : Packet) (l : Link) : (queueAck prm p l).tSend = l.tSend := rfl
@[simp] theorem queueAck_rxBuf (prm : Params) (p : Packet) (l : Link) : (queueAck prm p l).rxBuf = l.rxBuf := rfl
@[simp] theorem queueAck_qOut (prm : Params) (p : Packet) (l : Link) : (queueAck prm p l).qOut = enq prm.qDepth l.qOut (ackFor prm l.cfg.localAddr p) := rfl
@[simp] theorem queueAck_qData (prm : Params) (p : Packet) (l : Link) : (queueAck prm p l).qData = l.qData := rfl
@[simp] theorem queueAck_qAck (prm : Params) (p : Packet) (l : Link) : (queueAck prm p l).qAck = l.qAck := rfl
@[simp] theorem queueAck_qRaw (prm : Params) (p : Packet) (l : Link) : (queueAck prm p l).qRaw = l.qRaw := rfl
@[simp] theorem queueAck_cfg (prm : Params) (p : Packet) (l : Link) : (queueAck prm p l).cfg = l.cfg := rfl
@[simp] theorem queueAck_pending (prm : Params) (p : Packet) (l : Link) : (queueAck prm p l).pending = l.pending := rfl
@[simp] theorem queueAck_lastNow (prm : Params) (p : Packet) (l : Link) : (queueAck prm p l).lastNow = l.lastNow := rfl
@[simp] theorem queueAck_stalled (prm : Params) (p : Packet) (l : Link) : (queueAck prm p l).stalled = l.stalled := rfl

end Sys2Proof.Machine
end

