-- ==== Sys2Proof/Laws/Ops.lean ====
section
/-! SUPPORT. For each shared operation, what it can do: the queue append, the host operations, the steps of other agents, the scan of
`Q_ACK`, and what the worker's phases leave alone. -/

namespace Sys2Proof.Machine
open Sys2Proof

/-! ### Queues -/

/-- `enq` appends, or loses the entry when the queue is full (R84). -/
theorem enq_cases {α : Type} (d : Option Nat) (q : List α) (v : α) :
    (isFull d q = true ∧ enq d q v = q) ∨ (isFull d q = false ∧ enq d q v = q ++ [v]) := by
  unfold enq; split <;> simp_all

/-- `enq` loses the entry exactly when the queue holds `Q_DEPTH` entries (R84). -/
theorem enq_eq {α : Type} (d : Option Nat) (q : List α) (v : α) : enq d q v = if d = some q.length then q else q ++ [v] := by
  cases d <;> simp [enq, isFull, eq_comm]

/-- `elapsed` is `now - t >= T`, modulo `2^TIME_W` where the width is finite (R15, R372). -/
theorem elapsed_eq (p : Params) (now t limit : Nat) :
    elapsed p now t limit = decide (limit ≤ match p.timeW with
      | none => now - t
      | some w => (now + 2 ^ w - t % 2 ^ w) % 2 ^ w) := by
  unfold elapsed timeSince
  cases p.timeW with
  | none => rfl
  | some w => simp only [Nat.add_sub_assoc (Nat.le_of_lt (Nat.mod_lt t (Nat.two_pow_pos w)))]

theorem mem_enq {α : Type} {d : Option Nat} {q : List α} {v x : α} (h : x ∈ enq d q v) : x ∈ q ∨ x = v := by
  rcases enq_cases d q v with ⟨-, e⟩ | ⟨-, e⟩
  · exact .inl (e ▸ h)
  · simpa [e] using h

theorem enq_ne_nil {α : Type} {d : Option Nat} {q : List α} {v : α} (h : q ≠ []) : enq d q v ≠ [] := by
  unfold enq; split <;> simp [h]

theorem head?_enq {α : Type} {d : Option Nat} {q : List α} {v : α} (h : q ≠ []) : (enq d q v).head? = q.head? := by
  unfold enq; split
  · rfl
  · cases q <;> simp at *

theorem length_enq_le {α : Type} {d : Option Nat} {q : List α} {v : α} {n : Nat} (hd : n ∈ d) (h : q.length ≤ n) :
    (enq d q v).length ≤ n := by
  simp only [Option.mem_def] at hd; subst hd
  unfold enq isFull; dsimp only; split <;> rename_i hh
  · exact h
  · simp only [decide_eq_true_eq] at hh; simp only [List.length_append, List.length_cons, List.length_nil]; omega

/-! ### The receive path -/

theorem receiveByte_of_open {s : State} (b : Byte) (h : s.linkOpen = true) :
    receiveByte b s = s.mapLink (reassemble s.params.qDepth b) := by simp [receiveByte, h]

theorem receiveByte_of_closed {s : State} (b : Byte) (h : s.linkOpen = false) : receiveByte b s = s.refuse .notOpen := by
  simp [receiveByte, h]

theorem receiveBytes_cons (b : Byte) (c : List Byte) (s : State) :
    receiveBytes (b :: c) s = receiveBytes c (receiveByte b s) := rfl

theorem receiveBytes_append (a b : List Byte) (s : State) : receiveBytes (a ++ b) s = receiveBytes b (receiveBytes a s) := by
  simp [receiveBytes, List.foldl_append]

/-- What one byte does: it starts a frame or is dropped, it ends the frame, or it is appended (R231). -/
theorem reassemble_cases (d : Option Nat) (b : Byte) (l : Link) :
    ((l.rxBuf = [] ∨ overBound l = true) ∧ reassemble d b l = scanStart b l) ∨
    (l.rxBuf ≠ [] ∧ overBound l = false ∧ b = eotByte ∧
      reassemble d b l = { l with qRaw := enq d l.qRaw (l.rxBuf ++ [eotByte]), rxBuf := [] }) ∨
    (l.rxBuf ≠ [] ∧ overBound l = false ∧ b ≠ eotByte ∧ reassemble d b l = { l with rxBuf := l.rxBuf ++ [b] }) := by
  by_cases h1 : l.rxBuf = []
  · exact .inl ⟨.inl h1, by simp [reassemble, h1]⟩
  · by_cases h2 : overBound l = true
    · exact .inl ⟨.inr h2, by simp [reassemble, h2]⟩
    · by_cases h3 : b = eotByte
      · exact .inr (.inl ⟨h1, by simpa using h2, h3, by simp [reassemble, h1, h2, h3]⟩)
      · exact .inr (.inr ⟨h1, by simpa using h2, h3, by simp [reassemble, h1, h2, h3]⟩)

/-! ### The host operations -/

/-- ENQUEUE refuses, or admits a packet of a message kind that fits (R322). -/
theorem enqueue_cases (t : Template) (s : State) :
    (∃ r, enqueue t s = s.refuse r) ∨
    (notAccepting s = false ∧ isMessage t.kind = true ∧ payloadTooLong s.link.cfg t = false ∧
      isFull s.params.qDepth s.link.qOut = false ∧ enqueue t s = (s.mapLink (admitPacket s.params t)).reply .accepted) := by
  unfold enqueue
  repeat' split
  all_goals first
    | exact .inl ⟨_, rfl⟩
    | exact .inr ⟨by simp_all, by simp_all, by simp_all, by simp_all, rfl⟩

/-- SET_CONFIG refuses, or writes or holds a legal value of a register that exists (R330). -/
theorem setConfig_cases (reg : BitVec 3) (v : Nat) (s : State) :
    (∃ r, setConfig reg v s = s.refuse r) ∨
    (notAccepting s = false ∧ ∃ r, regOf reg = some r ∧ legalValue s.params r v = true ∧
      setConfig reg v s = (s.mapLink (setOrHold r v)).reply .accepted) := by
  unfold setConfig
  repeat' split
  all_goals first
    | exact .inl ⟨_, rfl⟩
    | exact .inr ⟨by simp_all, _, by assumption, by assumption, rfl⟩

/-! ### Steps of other agents inside an operation (log 9) -/

/-- What a step of another agent leaves alone on an open link. -/
structure AgentFrame (s t : State) : Prop where
  linkOpen : t.linkOpen = s.linkOpen
  params : t.params = s.params
  env : t.env = s.env
  inputs : t.inputs = s.inputs
  trace : t.trace = s.trace
  sendState : t.link.sendState = s.link.sendState
  requestOpen : t.link.requestOpen = s.link.requestOpen
  stalled : t.link.stalled = s.link.stalled
  head : s.link.qOut ≠ [] → t.link.qOut.head? = s.link.qOut.head?

theorem AgentFrame.refl (s : State) : AgentFrame s s := ⟨rfl, rfl, rfl, rfl, rfl, rfl, rfl, rfl, fun _ => rfl⟩

theorem AgentFrame.trans {s t u : State} (h : AgentFrame s t) (k : AgentFrame t u) : AgentFrame s u := by
  refine ⟨k.linkOpen.trans h.linkOpen, k.params.trans h.params, k.env.trans h.env, k.inputs.trans h.inputs,
    k.trace.trans h.trace, k.sendState.trans h.sendState, k.requestOpen.trans h.requestOpen,
    k.stalled.trans h.stalled, fun hn => ?_⟩
  have e := h.head hn
  have hn' : t.link.qOut ≠ [] := by
    intro e'; rw [e'] at e; cases hq : s.link.qOut <;> simp [hq] at e hn
  rw [k.head hn', e]

theorem agentStep_frame (op : AgentOp) (s : State) (h : s.linkOpen = true) : AgentFrame s (agentStep op s) := by
  cases op with
  | rxByte b =>
    rw [agentStep, receiveByte_of_open b h]
    rcases reassemble_cases s.params.qDepth b s.link with ⟨-, e⟩ | ⟨-, -, -, e⟩ | ⟨-, -, -, e⟩ <;>
      exact ⟨rfl, rfl, rfl, rfl, rfl, by simp [e], by simp [e], by simp [e], fun _ => by simp [e]⟩
  | openLink a => simp only [agentStep, openLink, h]; exact ⟨rfl, rfl, rfl, rfl, rfl, rfl, rfl, rfl, fun _ => rfl⟩
  | close => simp only [agentStep, h]; exact ⟨rfl, rfl, rfl, rfl, rfl, rfl, rfl, rfl, fun _ => rfl⟩
  | enqueue t =>
    rcases enqueue_cases t s with ⟨r, e⟩ | ⟨-, -, -, -, e⟩ <;> rw [agentStep, e]
    · exact ⟨rfl, rfl, rfl, rfl, rfl, rfl, rfl, rfl, fun _ => rfl⟩
    · exact ⟨rfl, rfl, rfl, rfl, rfl, rfl, rfl, rfl, fun hn => head?_enq hn⟩
  | setConfig reg v =>
    rcases setConfig_cases reg v s with ⟨r, e⟩ | ⟨-, r, -, -, e⟩ <;> rw [agentStep, e]
    · exact ⟨rfl, rfl, rfl, rfl, rfl, rfl, rfl, rfl, fun _ => rfl⟩
    · have hk : (setOrHold r v s.link).sendState = s.link.sendState ∧ (setOrHold r v s.link).requestOpen = s.link.requestOpen ∧
          (setOrHold r v s.link).stalled = s.link.stalled ∧ (setOrHold r v s.link).qOut = s.link.qOut := by
        unfold setOrHold; split <;> exact ⟨rfl, rfl, rfl, rfl⟩
      exact ⟨rfl, rfl, rfl, rfl, rfl, hk.1, hk.2.1, hk.2.2.1, fun _ => congrArg List.head? hk.2.2.2⟩

theorem runAgents_cons (op : AgentOp) (ops : List AgentOp) (s : State) :
    runAgents (op :: ops) s = runAgents ops (agentStep op s) := rfl

/-- Any steps of other agents leave the link open, and the parameters, the trace, the worker's registers and the head alone. -/
theorem runAgents_frame (ops : List AgentOp) (s : State) (h : s.linkOpen = true) : AgentFrame s (runAgents ops s) := by
  induction ops generalizing s with
  | nil => exact .refl s
  | cons op ops ih =>
    have h1 := agentStep_frame op s h
    rw [runAgents_cons]
    exact h1.trans (ih _ (h1.linkOpen.trans h))

/-- No step of another agent changes the environment of the operation it falls in. -/
theorem runAgents_env (ops : List AgentOp) (s : State) : (runAgents ops s).env = s.env := by
  induction ops generalizing s with
  | nil => rfl
  | cons op ops ih =>
    rw [runAgents_cons, ih]
    cases op with
    | rxByte b => simp only [agentStep, receiveByte]; split <;> rfl
    | openLink a => simp only [agentStep, openLink]; repeat' split
                    all_goals rfl
    | close => simp only [agentStep]; split <;> rfl
    | enqueue t =>
      rcases enqueue_cases t s with ⟨r, e⟩ | ⟨-, -, -, -, e⟩ <;> rw [agentStep, e] <;> rfl
    | setConfig reg v =>
      rcases setConfig_cases reg v s with ⟨r, e⟩ | ⟨-, r, -, -, e⟩ <;> rw [agentStep, e] <;> rfl

/-- What is left of a CLOSE when the other agents' steps are done: step 2, or, beside a worker that stands still, only the free value is
spent (R327, U10). -/
theorem closeEnd_cases (s : State) :
    (s.link.stalled = true ∧ closeEnd s = { s with freeCtr := s.freeCtr + 1 }) ∨ closeEnd s = closeFinish s := by
  unfold closeEnd; split
  · exact .inl ⟨by simp_all, rfl⟩
  · exact .inr rfl

/-! ### The parts of an operation -/

theorem andThen_next {o : Host.Outcome State Fault Refusal} {f : State → Host.Outcome State Fault Refusal} {t : State}
    (h : andThen o f = .next t) : ∃ s, o = .next s ∧ f s = .next t := by
  cases o with
  | next s => exact ⟨s, rfl, h⟩
  | fault r => cases h
  | refused r => cases h

/-! ### What the worker leaves alone (R94, R378) -/

/-- The registers of the link that no phase of a TICK writes. -/
structure LinkFrame (l m : Link) : Prop where
  stop : m.stop = l.stop
  rxBuf : m.rxBuf = l.rxBuf
  cfg : m.cfg = l.cfg
  pending : m.pending = l.pending
  lastNow : m.lastNow = l.lastNow

theorem LinkFrame.refl (l : Link) : LinkFrame l l := ⟨rfl, rfl, rfl, rfl, rfl⟩

theorem LinkFrame.trans {l m n : Link} (h : LinkFrame l m) (k : LinkFrame m n) : LinkFrame l n :=
  ⟨k.stop.trans h.stop, k.rxBuf.trans h.rxBuf, k.cfg.trans h.cfg, k.pending.trans h.pending, k.lastNow.trans h.lastNow⟩

/-- A part of a TICK in which no other agent moves: it leaves the life cycle, the interface and the registers of `LinkFrame`, only adds
to the trace, and stalls the worker only where the write or a handler does not return (U9, U13). -/
structure WorkerFrame (s t : State) : Prop where
  linkOpen : t.linkOpen = s.linkOpen
  gaps : t.env.gaps = s.env.gaps
  writeReturns : t.env.writeReturns = s.env.writeReturns
  params : t.params = s.params
  inputs : t.inputs = s.inputs
  replies : t.replies = s.replies
  freeCtr : t.freeCtr = s.freeCtr
  trace : ∃ out, t.trace = s.trace ++ out
  link : LinkFrame s.link t.link
  returns : s.env.writeReturns = true → s.env.handlerStall = none → t.env = s.env ∧ t.link.stalled = s.link.stalled

theorem WorkerFrame.refl (s : State) : WorkerFrame s s :=
  ⟨rfl, rfl, rfl, rfl, rfl, rfl, rfl, ⟨[], by simp⟩, .refl _, fun _ _ => ⟨rfl, rfl⟩⟩

theorem WorkerFrame.trans {s t u : State} (h : WorkerFrame s t) (k : WorkerFrame t u) : WorkerFrame s u := by
  obtain ⟨o, ho⟩ := h.trace
  obtain ⟨o', ho'⟩ := k.trace
  refine ⟨k.linkOpen.trans h.linkOpen, k.gaps.trans h.gaps, k.writeReturns.trans h.writeReturns, k.params.trans h.params,
    k.inputs.trans h.inputs, k.replies.trans h.replies, k.freeCtr.trans h.freeCtr,
    ⟨o ++ o', by rw [ho', ho, List.append_assoc]⟩, h.link.trans k.link, fun hw hr => ?_⟩
  have h1 := h.returns hw hr
  have h2 := k.returns (by rw [h1.1]; exact hw) (by rw [h1.1]; exact hr)
  exact ⟨h2.1.trans h1.1, h2.2.trans h1.2⟩

theorem mapLink_frame (s : State) (f : Link → Link) (h : LinkFrame s.link (f s.link))
    (hs : (f s.link).stalled = s.link.stalled) : WorkerFrame s (s.mapLink f) :=
  ⟨rfl, rfl, rfl, rfl, rfl, rfl, rfl, ⟨[], by simp⟩, h, fun _ _ => ⟨rfl, hs⟩⟩

theorem fire_frame (s : State) (e : Event) : WorkerFrame s (s.fire e) :=
  ⟨rfl, rfl, rfl, rfl, rfl, rfl, rfl, ⟨[.event e], rfl⟩, ⟨rfl, rfl, rfl, rfl, rfl⟩,
    fun _ hr => by simp [Env.afterCall_of_returns hr, Env.stalls_of_returns hr]⟩

theorem unlessStalled_frame {f : State → State} {s : State} (h : WorkerFrame s (f s)) : WorkerFrame s (unlessStalled f s) := by
  rcases unlessStalled_cases f s with ⟨-, e⟩ | ⟨-, e⟩ <;> rw [e]
  · exact .refl s
  · exact h

theorem popHead_frame (s : State) : WorkerFrame s (s.mapLink popHead) := mapLink_frame s _ ⟨rfl, rfl, rfl, rfl, rfl⟩ rfl

theorem terminate_frame (e : Event) (s : State) : WorkerFrame s (terminate e s) :=
  ((popHead_frame s).trans (fire_frame _ e)).trans (unlessStalled_frame (mapLink_frame _ _ ⟨rfl, rfl, rfl, rfl, rfl⟩ rfl))

theorem dropHead_frame (s : State) : WorkerFrame s (dropHead s) := mapLink_frame s _ ⟨rfl, rfl, rfl, rfl, rfl⟩ rfl

theorem takeAck_frame (a : Packet) (rest : List Packet) (s : State) : WorkerFrame s (takeAck a rest s) :=
  (mapLink_frame s _ ⟨rfl, rfl, rfl, rfl, rfl⟩ rfl).trans (fire_frame _ _)

/-! ### The scan of `Q_ACK` (R280) -/

theorem scanAcks_frame (seq : Byte) (q : List Packet) (s : State) : WorkerFrame s (scanAcks seq q s).2 := by
  induction q generalizing s with
  | nil => exact .refl s
  | cons a q ih =>
    unfold scanAcks; repeat' split
    · exact takeAck_frame a q s
    · exact takeAck_frame a q s
    · exact (takeAck_frame a q s).trans (ih _)

/-- The scan leaves the link but for `Q_ACK`, of which it leaves an end part, and whether the worker stands still; what it finds was
in the queue and matches. -/
theorem scanAcks_link (seq : Byte) (q : List Packet) (s : State) (hq : s.link.qAck = q) :
    (∃ taken rest b, q = taken ++ rest ∧ (scanAcks seq q s).2.link = { s.link with qAck := rest, stalled := b }) ∧
    ∀ a ∈ (scanAcks seq q s).1, a ∈ q ∧ a.seq = seq := by
  induction q generalizing s with
  | nil => exact ⟨⟨[], [], s.link.stalled, rfl, by simp [scanAcks, ← hq]⟩, by simp [scanAcks]⟩
  | cons a q ih =>
    have one : ∃ taken rest b, a :: q = taken ++ rest ∧ (takeAck a q s).link = { s.link with qAck := rest, stalled := b } :=
      ⟨[a], q, _, rfl, rfl⟩
    unfold scanAcks; repeat' split
    · exact ⟨one, by simp⟩
    · exact ⟨one, by simp_all⟩
    · obtain ⟨⟨taken, rest, b, e, hl⟩, hf⟩ := ih (takeAck a q s) rfl
      exact ⟨⟨a :: taken, rest, b, by rw [e]; rfl, hl⟩, fun x hx => ⟨.tail _ (hf x hx).1, (hf x hx).2⟩⟩

/-- Where every handler returns, one entry leaves `Q_ACK` and is observed (R280). -/
theorem takeAck_of_returns {s : State} (a : Packet) (rest : List Packet) (h : s.env.handlerStall = none) :
    takeAck a rest s = { s with
      trace := s.trace ++ [.event (.onAckNackObserved false (some a))], link := { s.link with qAck := rest } } := by
  rw [takeAck, State.fire_of_returns]
  · rfl
  · exact h

theorem scanAcks_cons {seq : Byte} (a : Packet) (rest : List Packet) (s : State) (h : s.env.handlerStall = none)
    (hs : s.link.stalled = false) :
    scanAcks seq (a :: rest) s =
      if a.seq = seq then (some a, takeAck a rest s) else scanAcks seq rest (takeAck a rest s) := by
  rw [scanAcks, if_neg (by simp [hs, Env.stalls_of_returns h])]

/-- Where every handler returns, the scan takes the entries up to the first match and observes each (R280). -/
theorem scanAcks_found {seq : Byte} {a : Packet} (before after : List Packet) (s : State) (h : s.env.handlerStall = none)
    (hs : s.link.stalled = false) (hb : ∀ x ∈ before, x.seq ≠ seq) (ha : a.seq = seq) :
    scanAcks seq (before ++ a :: after) s = (some a, { s with
      trace := s.trace ++ (before ++ [a]).map fun x => .event (.onAckNackObserved false (some x))
      link := { s.link with qAck := after } }) := by
  induction before generalizing s with
  | nil => rw [List.nil_append, scanAcks_cons a after s h hs, if_pos ha, takeAck_of_returns _ _ h]; rfl
  | cons b before ih =>
    rw [List.cons_append, scanAcks_cons _ _ s h hs, if_neg (hb b (by simp)), takeAck_of_returns _ _ h, ih]
    · simp
    · exact h
    · exact hs
    · exact fun x hx => hb x (by simp [hx])

/-- Where every handler returns and no entry matches, the scan takes and observes them all (R280). -/
theorem scanAcks_none {seq : Byte} (q : List Packet) (s : State) (hq : s.link.qAck = q) (h : s.env.handlerStall = none)
    (hs : s.link.stalled = false) (hb : ∀ x ∈ q, x.seq ≠ seq) :
    scanAcks seq q s = (none, { s with
      trace := s.trace ++ q.map fun x => .event (.onAckNackObserved false (some x)), link := { s.link with qAck := [] } }) := by
  induction q generalizing s with
  | nil =>
    obtain ⟨_, l, _, _, _, _, _, _⟩ := s
    cases l; simp only at hq; subst hq; simp [scanAcks]
  | cons b q ih =>
    rw [scanAcks_cons _ _ s h hs, if_neg (hb b (by simp)), takeAck_of_returns _ _ h, ih]
    · simp
    · rfl
    · exact h
    · exact hs
    · exact fun x hx => hb x (by simp [hx])

/-- The scan takes and observes entries that do not match, while the handler calls that return last (R280, U13). -/
theorem scanAcks_skips {seq : Byte} {k : Nat} (before rest : List Packet) (s : State) (hq : s.link.qAck = before ++ rest)
    (h : s.env.handlerStall = some (before.length + k)) (hs : s.link.stalled = false) (hb : ∀ x ∈ before, x.seq ≠ seq) :
    scanAcks seq (before ++ rest) s = scanAcks seq rest { s with
      trace := s.trace ++ before.map fun x => .event (.onAckNackObserved false (some x))
      link := { s.link with qAck := rest }, env := { s.env with handlerStall := some k } } := by
  induction before generalizing s with
  | nil =>
    obtain ⟨_, l, _, _, _, _, v, _⟩ := s
    cases l; cases v; simp_all
  | cons b before ih =>
    have hk : s.env.stalls = false := by simp [Env.stalls, h]
    have e : takeAck b (before ++ rest) s = { s with
        trace := s.trace ++ [.event (.onAckNackObserved false (some b))]
        link := { s.link with qAck := before ++ rest }
        env := { s.env with handlerStall := some (before.length + k) } } := by
      simp only [takeAck, State.fire, State.emit, State.mapLink, Env.afterCall, h, hs]
      simp [Env.stalls, h]
    rw [List.cons_append, scanAcks, e, if_neg (by simp [hs]), if_neg (hb b (by simp)), ih]
    · simp
    · rfl
    · rfl
    · exact hs
    · exact fun x hx => hb x (by simp [hx])

theorem detectReset_frame (p : Params) (x : Packet) (l : Link) : LinkFrame l (detectReset p x l) := by
  unfold detectReset; split
  · exact ⟨rfl, rfl, rfl, rfl, rfl⟩
  · exact .refl l

theorem stampHead_frame (l : Link) : LinkFrame l (stampHead l) := by
  unfold stampHead; split <;> exact ⟨rfl, rfl, rfl, rfl, rfl⟩

theorem classify_frame (d : Option Nat) (p : Packet) (l : Link) : LinkFrame l (classify d p l) := by
  unfold classify; split <;> exact ⟨rfl, rfl, rfl, rfl, rfl⟩

theorem drainRaw_frame (d : Option Nat) (l : Link) : LinkFrame l (drainRaw d l) := by
  have fold : ∀ (q : List (List Byte)) (l : Link), LinkFrame l (q.foldl (fun l r => classify d (decodeFrame r) l) l) := by
    intro q
    induction q with
    | nil => exact fun l => .refl l
    | cons r q ih => exact fun l => (classify_frame d _ l).trans (ih _)
  exact (⟨rfl, rfl, rfl, rfl, rfl⟩ : LinkFrame l { l with qRaw := [] }).trans (fold _ _)

theorem detectReset_stalled (p : Params) (x : Packet) (l : Link) : (detectReset p x l).stalled = l.stalled := by
  unfold detectReset; split <;> rfl

theorem classify_stalled (d : Option Nat) (p : Packet) (l : Link) : (classify d p l).stalled = l.stalled := by
  unfold classify; split <;> rfl

theorem drainRaw_stalled (d : Option Nat) (l : Link) : (drainRaw d l).stalled = l.stalled := by
  have fold : ∀ (q : List (List Byte)) (l : Link), (q.foldl (fun l r => classify d (decodeFrame r) l) l).stalled = l.stalled := by
    intro q
    induction q with
    | nil => exact fun l => rfl
    | cons r q ih => exact fun l => (ih _).trans (classify_stalled d _ l)
  exact fold _ _

theorem recordDelivery_stalled (now : Nat) (p : Packet) (l : Link) : (recordDelivery now p l).stalled = l.stalled := by
  unfold recordDelivery; split <;> rfl

theorem phase1_frame (s : State) : WorkerFrame s (phase1 s) := mapLink_frame s _ (drainRaw_frame _ _) (drainRaw_stalled _ _)

theorem recordDelivery_frame (now : Nat) (p : Packet) (l : Link) : LinkFrame l (recordDelivery now p l) := by
  unfold recordDelivery; split <;> exact ⟨rfl, rfl, rfl, rfl, rfl⟩

theorem handleIncoming_frame (now : Nat) (p : Packet) (s : State) : WorkerFrame s (handleIncoming now p s) := by
  have ack : WorkerFrame s (s.mapLink (queueAck s.params p)) := mapLink_frame s _ ⟨rfl, rfl, rfl, rfl, rfl⟩ rfl
  unfold handleIncoming; split
  · split
    · exact (mapLink_frame s (fun l => { detectReset s.params p l with responseReceived := true })
        ((detectReset_frame _ _ _).trans ⟨rfl, rfl, rfl, rfl, rfl⟩) (detectReset_stalled _ _ _)).trans (fire_frame _ _)
    · unfold independentPath; split
      · exact ack
      · unfold deliver; split
        · exact ack
        · exact ack.trans
            ((mapLink_frame _ _ (recordDelivery_frame _ _ _) (recordDelivery_stalled _ _ _)).trans (fire_frame _ _))
  · exact .refl s

theorem phase2_frame (now : Nat) (s : State) : WorkerFrame s (phase2 now s) := by
  unfold phase2; split
  · exact .refl s
  · rename_i p rest _
    exact (mapLink_frame s (fun l => { l with qData := rest }) ⟨rfl, rfl, rfl, rfl, rfl⟩ rfl).trans (handleIncoming_frame _ _ _)

theorem answerSent_frame (h : Packet) (s : State) : WorkerFrame s (answerSent h s) :=
  ((popHead_frame s).trans (fire_frame _ _)).trans (unlessStalled_frame (mapLink_frame _ _ ⟨rfl, rfl, rfl, rfl, rfl⟩ rfl))

theorem dispose_frame (now : Nat) (h : Packet) (s : State) : WorkerFrame s (dispose now h s) := by
  unfold dispose; repeat' split
  · exact dropHead_frame s
  · exact answerSent_frame h s
  · exact mapLink_frame s _ ⟨rfl, rfl, rfl, rfl, rfl⟩ rfl

theorem onPositiveAck_frame (h : Packet) (s : State) : WorkerFrame s (onPositiveAck h s) := by
  unfold onPositiveAck; split
  · exact mapLink_frame s _ ⟨rfl, rfl, rfl, rfl, rfl⟩ rfl
  · exact terminate_frame _ s

theorem onNegativeAck_frame (h : Packet) (s : State) : WorkerFrame s (onNegativeAck h s) := by
  unfold onNegativeAck; split
  · exact (mapLink_frame s countNack ⟨rfl, rfl, rfl, rfl, rfl⟩ rfl).trans (terminate_frame _ _)
  · exact mapLink_frame s _ ⟨rfl, rfl, rfl, rfl, rfl⟩ rfl

theorem retryOrGiveUp_frame (h : Packet) (s : State) : WorkerFrame s (retryOrGiveUp h s) := by
  unfold retryOrGiveUp; split
  · exact (mapLink_frame s countTimeout ⟨rfl, rfl, rfl, rfl, rfl⟩ rfl).trans (terminate_frame _ _)
  · exact mapLink_frame s _ ⟨rfl, rfl, rfl, rfl, rfl⟩ rfl

theorem onAckTimeout_frame (h : Packet) (s : State) : WorkerFrame s (onAckTimeout h s) :=
  (fire_frame s _).trans (unlessStalled_frame (retryOrGiveUp_frame h _))

theorem afterScan_frame {now : Nat} {h : Packet} {found : Option Packet} {s t : State} (e : afterScan now h found s = .next t) :
    WorkerFrame s t := by
  unfold afterScan at e; repeat' split at e
  all_goals cases e
  · exact onPositiveAck_frame h s
  · exact onNegativeAck_frame h s
  · exact onAckTimeout_frame h s
  · exact .refl s

theorem waitAckAction_frame {now : Nat} {h : Packet} {s t : State} (e : waitAckAction now h s = .next t) : WorkerFrame s t := by
  unfold waitAckAction handleAcks at e; split at e
  · cases e; exact scanAcks_frame _ _ s
  · exact (scanAcks_frame _ _ s).trans (afterScan_frame e)

theorem waitResponseAction_frame (now : Nat) (h : Packet) (s : State) : WorkerFrame s (waitResponseAction now h s) := by
  unfold waitResponseAction; repeat' split
  · exact (mapLink_frame s (fun l => { l with responseReceived := false }) ⟨rfl, rfl, rfl, rfl, rfl⟩ rfl).trans (dropHead_frame _)
  · exact terminate_frame _ s
  · exact .refl s

/-- The start of a TICK leaves everything but the configuration, the held list and the time of the last TICK. -/
theorem startTick_frame (now : Nat) (s : State) :
    (startTick now s).linkOpen = s.linkOpen ∧ (startTick now s).env = s.env ∧ (startTick now s).params = s.params ∧
    (startTick now s).inputs = s.inputs ∧ (startTick now s).trace = s.trace ∧ (startTick now s).link.stop = s.link.stop ∧
    (startTick now s).link.rxBuf = s.link.rxBuf ∧ (startTick now s).link.qOut = s.link.qOut ∧
    (startTick now s).link.sendState = s.link.sendState ∧ (startTick now s).link.stalled = s.link.stalled := by
  simp only [startTick, State.mapLink, applyHeld]; split <;> simp

end Sys2Proof.Machine
end

