-- ==== Sys2Proof/Laws/Invariant.lean ====
section
/-! SUPPORT. What keeps the link's invariant: the receive path, the appends to the queues, the configuration writes, the steps of other
agents. -/

namespace Sys2Proof.Safety
open Sys2Proof Sys2Proof.Machine

/-- The invariant reads eleven fields only. -/
theorem LinkInv.congr {p : Params} {l m : Link} (h : LinkInv p l) (h1 : m.sendState = l.sendState) (h2 : m.rxBuf = l.rxBuf)
    (h3 : m.qOut = l.qOut) (h4 : m.qData = l.qData) (h5 : m.qAck = l.qAck) (h6 : m.qRaw = l.qRaw) (h7 : m.cfg = l.cfg)
    (h8 : m.pending = l.pending) (h9 : m.ackToCnt = l.ackToCnt) (h10 : m.nackCnt = l.nackCnt)
    (h11 : m.stalled = l.stalled) : LinkInv p m := by
  cases m; cases l; simp only at *; subst h1 h2 h3 h4 h5 h6 h7 h8 h9 h10 h11; exact { h with }

/-- A completed buffer is a RawFrame (R43, R234). -/
theorem isRawFrame_completed {l : List Byte} (h : l.head? = some sohByte) (he : eotByte ∉ l) :
    isRawFrame (l ++ [eotByte]) = true := by
  cases l with
  | nil => simp at h
  | cons a r =>
    simp only [List.head?_cons, Option.some.injEq] at h; subst h
    have hl : (sohByte :: r ++ [eotByte]).getLast? = some eotByte := List.getLast?_concat
    simp only [isRawFrame, List.contains_eq_mem, List.dropLast_concat, he, hl]
    simp

theorem reassemble_keeps_inv {p : Params} {l : Link} (b : Byte) (h : LinkInv p l) : LinkInv p (reassemble p.qDepth b l) := by
  rcases reassemble_cases p.qDepth b l with ⟨-, e⟩ | ⟨hn, hb, rfl, e⟩ | ⟨hn, hb, hne, e⟩ <;> rw [e]
  · refine { h with rxForm := ?_, rxBound := ?_ }
    · rw [scanStart_rxBuf]; split
      · right; simp [sohByte, eotByte]
      · exact .inl rfl
    · have := h.cfgLegal.2
      rw [scanStart_rxBuf, scanStart_cfg]; split <;> simp; omega
  · have hf := h.rxForm.resolve_left hn
    refine { h with rxForm := .inl rfl, rxBound := Nat.zero_le _, rawForms := ?_, depth := ?_ }
    · intro r hr
      rcases mem_enq hr with hr | rfl
      · exact h.rawForms r hr
      · exact isRawFrame_completed hf.1 hf.2
    · intro d hd
      have := h.depth d hd
      exact ⟨this.1, this.2.1, this.2.2.1, length_enq_le hd this.2.2.2⟩
  · have hf := h.rxForm.resolve_left hn
    refine { h with rxForm := .inr ⟨?_, ?_⟩, rxBound := ?_ }
    · simp [hf.1]
    · simp only [List.mem_append, List.mem_singleton, not_or]; exact ⟨hf.2, fun k => hne k.symm⟩
    · simp [overBound] at hb; simp; omega

theorem outgoing_packetOf {p : Params} {seq : Byte} {t : Template} (hm : isMessage t.kind = true) :
    outgoing (packetOf p seq t) = true := by simp [outgoing, packetOf, withParity, unstuffed, hm]

theorem outgoing_ackFor (p : Params) (a : Byte) (x : Packet) : outgoing (ackFor p a x) = true := by
  have hk : (ackFor p a x).kind = .negativeAck ∨ (ackFor p a x).kind = .positiveAck := by
    simp only [ackFor, withParity]; cases x.fail <;> simp
  have hf : (ackFor p a x).fail = false := rfl
  simp only [outgoing, hf, unstuffed]
  rcases hk with h | h <;> simp [h, isMessage, isControl]

/-- An append to `Q_OUT` leaves the head of a packet in flight alone (R57). -/
theorem enq_out_keeps_inv {p : Params} {l : Link} (v : Packet) (h : LinkInv p l) (hv : outgoing v = true) :
    LinkInv p { l with qOut := enq p.qDepth l.qOut v } := by
  refine { h with
    singleFlight := fun hr hs => enq_ne_nil (h.singleFlight hr hs), awaitsMessage := ?_, awaitsRequest := ?_, outKinds := ?_
    depth := ?_ }
  · intro hr hs
    dsimp only; rw [head?_enq (h.singleFlight hr (by rw [hs]; decide))]; exact h.awaitsMessage hr hs
  · intro hr hs
    dsimp only; rw [head?_enq (h.singleFlight hr (by rw [hs]; decide))]; exact h.awaitsRequest hr hs
  · intro x hx
    rcases mem_enq hx with hx | rfl
    · exact h.outKinds x hx
    · exact hv
  · intro d hd
    have := h.depth d hd
    exact ⟨length_enq_le hd this.1, this.2⟩

/-- A legal write on an idle link (R51, R333). -/
theorem setReg_keeps_inv {p : Params} {l : Link} (r : CfgReg) (v : Nat) (h : LinkInv p l) (hi : linkIdle l = true)
    (hv : legalValue p r v = true) : LinkInv p (setReg r v l) := by
  simp only [linkIdle, Bool.and_eq_true, decide_eq_true_eq, List.isEmpty_iff] at hi
  have hc := h.idleCounters hi.1
  refine { h with rxBound := ?_, counters := ?_, cfgLegal := ?_ }
  · simp [hi.2]
  · simp only [setReg_ackToCnt, setReg_nackCnt, hc]; exact ⟨BitVec.le_def.2 (Nat.zero_le _), BitVec.le_def.2 (Nat.zero_le _)⟩
  · have := h.cfgLegal
    cases r <;> simp only [setReg, writeReg] <;> try exact this
    · simp [legalValue] at hv; exact ⟨by simp; omega, this.2⟩
    · simp [legalValue] at hv; exact ⟨this.1, by simp; omega⟩

theorem writeAll_keeps_inv {p : Params} (held : List (CfgReg × Nat)) (l : Link) (h : LinkInv p l) (hi : linkIdle l = true)
    (hv : ∀ rv ∈ held, legalValue p rv.1 rv.2 = true) : LinkInv p { l with cfg := writeAll l.cfg held } := by
  induction held generalizing l with
  | nil => exact h
  | cons rv held ih =>
    exact ih (setReg rv.1 rv.2 l) (setReg_keeps_inv rv.1 rv.2 h hi (hv rv (by simp))) hi fun x hx => hv x (by simp [hx])

theorem applyHeld_keeps_inv {p : Params} {l : Link} (h : LinkInv p l) : LinkInv p (applyHeld l) := by
  unfold applyHeld; split
  · exact { writeAll_keeps_inv l.pending l h (by assumption) h.pendingLegal with pendingLegal := by simp }
  · exact h

theorem setOrHold_keeps_inv {p : Params} {l : Link} (r : CfgReg) (v : Nat) (h : LinkInv p l) (hv : legalValue p r v = true) :
    LinkInv p (setOrHold r v l) := by
  unfold setOrHold; split
  · exact setReg_keeps_inv r v h (by assumption) hv
  · refine { h with pendingLegal := ?_ }
    intro x hx
    simp only [List.mem_append, List.mem_singleton] at hx
    rcases hx with hx | rfl
    · exact h.pendingLegal x hx
    · exact hv

theorem classify_keeps_inv {p : Params} {l : Link} (x : Packet) (h : LinkInv p l) : LinkInv p (classify p.qDepth x l) := by
  unfold classify
  split <;> rename_i hq
  · refine { h with dataKinds := ?_, depth := fun d hd => ?_ }
    · intro y hy
      rcases mem_enq hy with hy | rfl
      · exact h.dataKinds y hy
      · unfold queueOf queueOfKind at hq
        repeat' split at hq
        all_goals simp_all
    · have := h.depth d hd
      exact ⟨this.1, length_enq_le hd this.2.1, this.2.2⟩
  · refine { h with ackKinds := ?_, depth := fun d hd => ?_ }
    · intro y hy
      rcases mem_enq hy with hy | rfl
      · exact h.ackKinds y hy
      · unfold queueOf queueOfKind at hq
        repeat' split at hq
        all_goals simp_all
    · have := h.depth d hd
      exact ⟨this.1, this.2.1, length_enq_le hd this.2.2.1, this.2.2.2⟩
  · exact h

theorem drainRaw_keeps_inv {p : Params} {l : Link} (h : LinkInv p l) : LinkInv p (drainRaw p.qDepth l) := by
  have fold : ∀ (q : List (List Byte)) (m : Link), LinkInv p m →
      LinkInv p (q.foldl (fun l r => classify p.qDepth (decodeFrame r) l) m) := by
    intro q
    induction q with
    | nil => exact fun _ hm => hm
    | cons r q ih => exact fun m hm => ih _ (classify_keeps_inv _ hm)
  refine fold _ _ { h with rawForms := by simp, depth := fun d hd => ?_ }
  have := h.depth d hd
  exact ⟨this.1, this.2.1, this.2.2.1, Nat.zero_le _⟩

/-- The head leaves and the state is Idle (R290). -/
theorem popHead_keeps_inv {p : Params} {l : Link} (h : LinkInv p l) : LinkInv p (goto .idle (popHead l)) := by
  have zero : ∀ c : BitVec 8, (0 : BitVec 8) ≤ c := fun c => BitVec.le_def.2 (Nat.zero_le _)
  refine { h with
    singleFlight := fun _ k => absurd rfl k, awaitsMessage := fun _ k => (by cases k)
    awaitsRequest := fun _ k => (by cases k)
    outKinds := fun x hx => h.outKinds x (List.mem_of_mem_tail hx), idleCounters := fun _ => ⟨rfl, rfl⟩
    counters := ⟨zero _, zero _⟩, depth := fun d hd => ?_ }
  have := h.depth d hd
  exact ⟨by simp; omega, this.2⟩

theorem agentStep_keeps_inv (op : AgentOp) (s : State) (ho : s.linkOpen = true) (h : LinkInv s.params s.link) :
    LinkInv s.params (agentStep op s).link := by
  cases op with
  | rxByte b => rw [agentStep, receiveByte_of_open b ho]; exact reassemble_keeps_inv b h
  | openLink a => simp only [agentStep, openLink, ho]; exact h
  | close => simp only [agentStep, ho]; exact { h with }
  | enqueue t =>
    rcases enqueue_cases t s with ⟨r, e⟩ | ⟨-, hk, -, -, e⟩ <;> rw [agentStep, e]
    · exact h
    · exact (enq_out_keeps_inv (packetOf s.params s.link.seqCtr t) h (outgoing_packetOf hk)).congr
        rfl rfl rfl rfl rfl rfl rfl rfl rfl rfl rfl
  | setConfig reg v =>
    rcases setConfig_cases reg v s with ⟨r, e⟩ | ⟨-, r, -, hv, e⟩ <;> rw [agentStep, e]
    · exact h
    · exact setOrHold_keeps_inv r v h hv

/-- Any steps of other agents keep the invariant of an open link. -/
theorem runAgents_keeps_inv (ops : List AgentOp) (s : State) (ho : s.linkOpen = true) (h : LinkInv s.params s.link) :
    LinkInv s.params (runAgents ops s).link := by
  induction ops generalizing s with
  | nil => exact h
  | cons op ops ih =>
    have f := agentStep_frame op s ho
    have := ih (agentStep op s) (f.linkOpen.trans ho) (by rw [f.params]; exact agentStep_keeps_inv op s ho h)
    rw [f.params] at this; exact this

end Sys2Proof.Safety
end

