-- ==== Sys2Proof/Laws/PerInstr.lean ====
section
/-! SUPPORT. The per-instruction family `TableRow`: the encoding of every instruction carries the fixed bits of its row of
spec/opcode_table.json, at the row's level. -/

namespace Sys2Proof.Laws.TableRow
open Sys2Proof Sys2Proof.Machine

/-- The leading bytes fit a list of (mask, match) pairs. -/
def fits : List (Byte × Byte) → List Byte → Bool
  | [], _ => true
  | _ :: _, [] => false
  | (mask, value) :: row, b :: bs => decide (b &&& mask = value) && fits row bs

/-- The row of an instruction: its level, and mask and match of its leading bytes, as spec/opcode_table.json gives them (a byte of
operands has mask 0). -/
def row : Instr → Level × List (Byte × Byte)
  | .openLink _ => (.operation, [(0xFF, 0x01)])
  | .close => (.operation, [(0xFF, 0x02)])
  | .enqueue _ => (.operation, [(0xFF, 0x03)])
  | .setConfig _ _ => (.operation, [(0xFF, 0x04)])
  | .tick _ => (.operation, [(0xFF, 0x05)])
  | .rxByte _ => (.operation, [(0xFF, 0x06)])
  | .crc16 _ _ => (.operation, [(0xFF, 0x10)])
  | .stuff _ => (.operation, [(0xFF, 0x11)])
  | .unstuff _ => (.operation, [(0xFF, 0x12)])
  | .encode _ => (.operation, [(0xFF, 0x13)])
  | .decode _ => (.operation, [(0xFF, 0x14)])
  | .setLocalAddr _ => (.register, [(0x07, 0x00)])
  | .setAckTimeout _ => (.register, [(0x07, 0x01)])
  | .setRespTimeout _ => (.register, [(0x07, 0x02)])
  | .setMaxRetx _ => (.register, [(0x07, 0x03)])
  | .setIdleDelay _ => (.register, [(0x07, 0x04)])
  | .setMaxFrame _ => (.register, [(0x07, 0x05)])
  | .setWorkerPriority _ => (.register, [(0x07, 0x06)])
  | .setReserved7 => (.register, [(0x07, 0x07)])
  | .soh => (.stream, [(0xFF, 0x01)])
  | .eot => (.stream, [(0xFF, 0x04)])
  | .content _ => (.stream, [(0x00, 0x00)])
  | .esc00 => (.content, [(0xFF, 0x10), (0xFF, 0x40)])
  | .esc01 => (.content, [(0xFF, 0x10), (0xFF, 0x41)])
  | .esc02 => (.content, [(0xFF, 0x10), (0xFF, 0x42)])
  | .esc03 => (.content, [(0xFF, 0x10), (0xFF, 0x43)])
  | .esc04 => (.content, [(0xFF, 0x10), (0xFF, 0x44)])
  | .esc0A => (.content, [(0xFF, 0x10), (0xFF, 0x4A)])
  | .esc0D => (.content, [(0xFF, 0x10), (0xFF, 0x4D)])
  | .esc10 => (.content, [(0xFF, 0x10), (0xFF, 0x50)])
  | .esc17 => (.content, [(0xFF, 0x10), (0xFF, 0x57)])
  | .escAny _ => (.content, [(0xFF, 0x10), (0x00, 0x00)])
  | .shiftDangling => (.content, [(0xFF, 0x10)])
  | .plain _ => (.content, [(0x00, 0x00)])
  | .kindData _ _ => (.header, [(0x07, 0x00)])
  | .kindReserved _ _ => (.header, [(0x07, 0x01)])
  | .kindPositiveAck _ _ => (.header, [(0x07, 0x02)])
  | .kindNegativeAck _ _ => (.header, [(0x07, 0x03)])
  | .kindRequest _ _ => (.header, [(0x07, 0x04)])
  | .kind5 _ _ => (.header, [(0x07, 0x05)])
  | .kind6 _ _ => (.header, [(0x07, 0x06)])
  | .kind7 _ _ => (.header, [(0x07, 0x07)])
  | .formatC _ => (.frame, List.replicate 5 (0x00, 0x00))
  | .formatM _ _ _ _ => (.frame, List.replicate 12 (0x00, 0x00))
  | .wire _ => (.wire, [(0xFF, 0x01)])

/-- The encoding of the instruction is one of its row's. -/
def Statement (i : Instr) : Prop := (Sys2Proof.encode i).1 = (row i).1 ∧ fits (row i).2 (Sys2Proof.encode i).2 = true

/-- The kind bits of header byte 1 are the kind (R114). -/
theorem headerByte1_and_7 (e : Bool) (p : BitVec 4) (k : Kind) : headerByte1 e p k &&& 0x07 = (kindCode k).zeroExtend 8 := by
  revert p; cases e <;> cases k <;> decide +kernel

/-- A header byte 1 fits the row of its kind. -/
theorem fits_header {e : Bool} {p : BitVec 4} {k : Kind} {v : Byte} (h : (kindCode k).zeroExtend 8 = v) :
    fits [(0x07, v)] [headerByte1 e p k] = true := by
  simp only [fits, (headerByte1_and_7 e p k).trans h, decide_true, Bool.and_true]

/-- Any bytes fit a row that fixes none of them. -/
theorem fits_operands (n : Nat) (bs : List Byte) (h : n ≤ bs.length) : fits (List.replicate n (0x00, 0x00)) bs = true := by
  induction n generalizing bs with
  | zero => rfl
  | succ n ih =>
    cases bs with
    | nil => simp at h
    | cons b bs => simpa [List.replicate, fits] using ih bs (by simpa using h)

theorem openLink (a : Byte) : Statement (.openLink a) := ⟨rfl, rfl⟩
theorem close : Statement .close := ⟨rfl, rfl⟩
theorem enqueue (t : Template) : Statement (.enqueue t) := ⟨rfl, rfl⟩
theorem setConfig (r : BitVec 3) (v : Nat) : Statement (.setConfig r v) := ⟨rfl, rfl⟩
theorem tick (n : Nat) : Statement (.tick n) := ⟨rfl, rfl⟩
theorem rxByte (b : Byte) : Statement (.rxByte b) := ⟨rfl, rfl⟩
theorem crc16 (x : List Byte) (n : Nat) : Statement (.crc16 x n) := ⟨rfl, rfl⟩
theorem stuff (x : List Byte) : Statement (.stuff x) := ⟨rfl, rfl⟩
theorem unstuff (x : List Byte) : Statement (.unstuff x) := ⟨rfl, rfl⟩
theorem encode (p : Packet) : Statement (.encode p) := ⟨rfl, rfl⟩
theorem decode (r : List Byte) : Statement (.decode r) := ⟨rfl, rfl⟩
theorem setLocalAddr (v : Byte) : Statement (.setLocalAddr v) := ⟨rfl, rfl⟩
theorem setAckTimeout (v : Nat) : Statement (.setAckTimeout v) := ⟨rfl, rfl⟩
theorem setRespTimeout (v : Nat) : Statement (.setRespTimeout v) := ⟨rfl, rfl⟩
theorem setMaxRetx (v : Byte) : Statement (.setMaxRetx v) := ⟨rfl, rfl⟩
theorem setIdleDelay (v : Nat) : Statement (.setIdleDelay v) := ⟨rfl, rfl⟩
theorem setMaxFrame (v : Word16) : Statement (.setMaxFrame v) := ⟨rfl, rfl⟩
theorem setWorkerPriority (v : Nat) : Statement (.setWorkerPriority v) := ⟨rfl, rfl⟩
theorem setReserved7 : Statement .setReserved7 := ⟨rfl, rfl⟩
theorem soh : Statement .soh := ⟨rfl, rfl⟩
theorem eot : Statement .eot := ⟨rfl, rfl⟩
theorem content (b : Byte) : Statement (.content b) := ⟨rfl, by simp [Sys2Proof.encode, row, fits]⟩
theorem esc00 : Statement .esc00 := ⟨rfl, rfl⟩
theorem esc01 : Statement .esc01 := ⟨rfl, rfl⟩
theorem esc02 : Statement .esc02 := ⟨rfl, rfl⟩
theorem esc03 : Statement .esc03 := ⟨rfl, rfl⟩
theorem esc04 : Statement .esc04 := ⟨rfl, rfl⟩
theorem esc0A : Statement .esc0A := ⟨rfl, rfl⟩
theorem esc0D : Statement .esc0D := ⟨rfl, rfl⟩
theorem esc10 : Statement .esc10 := ⟨rfl, rfl⟩
theorem esc17 : Statement .esc17 := ⟨rfl, rfl⟩
theorem escAny (v : Byte) : Statement (.escAny v) := ⟨rfl, by simp [Sys2Proof.encode, row, fits]⟩
theorem shiftDangling : Statement .shiftDangling := ⟨rfl, rfl⟩
theorem plain (b : Byte) : Statement (.plain b) := ⟨rfl, by simp [Sys2Proof.encode, row, fits]⟩
theorem kindData (e : Bool) (p : BitVec 4) : Statement (.kindData e p) := ⟨rfl, fits_header rfl⟩
theorem kindReserved (e : Bool) (p : BitVec 4) : Statement (.kindReserved e p) := ⟨rfl, fits_header rfl⟩
theorem kindPositiveAck (e : Bool) (p : BitVec 4) : Statement (.kindPositiveAck e p) := ⟨rfl, fits_header rfl⟩
theorem kindNegativeAck (e : Bool) (p : BitVec 4) : Statement (.kindNegativeAck e p) := ⟨rfl, fits_header rfl⟩
theorem kindRequest (e : Bool) (p : BitVec 4) : Statement (.kindRequest e p) := ⟨rfl, fits_header rfl⟩
theorem kind5 (e : Bool) (p : BitVec 4) : Statement (.kind5 e p) := ⟨rfl, fits_header rfl⟩
theorem kind6 (e : Bool) (p : BitVec 4) : Statement (.kind6 e p) := ⟨rfl, fits_header rfl⟩
theorem kind7 (e : Bool) (p : BitVec 4) : Statement (.kind7 e p) := ⟨rfl, fits_header rfl⟩
theorem formatC (h : Header) : Statement (.formatC h) := ⟨rfl, fits_operands 5 _ (by simp [Sys2Proof.encode, headerBytes])⟩
theorem formatM (h : Header) (m : Message) (x : List Byte) (c : Word16) : Statement (.formatM h m x c) :=
  ⟨rfl, fits_operands 12 _ (by simp [Sys2Proof.encode, messageBody, headerBytes, crcBytes])⟩
theorem wire (u : List Byte) : Statement (.wire u) := ⟨rfl, rfl⟩

end Sys2Proof.Laws.TableRow
end

