-- ==== Sys2Proof/Tests/Slice0.lean ====
section
/-! SUPPORT. The model's own tests: ill-formed terms are refused; every constructor's encoding, written out from 30_encoding.md,
decodes to it; vectors of 95_test_vectors.md, one step each; and, for every statement with hypotheses, a state and operands that
meet them. -/

/- One theorem after the other: a `decide +kernel` that runs beside others only waits for the kernel, in a thread of its own. -/
set_option Elab.async false

namespace Sys2Proof.Tests
open Sys2Proof Sys2Proof.Machine Sys2Proof.Safety

/-! ### Helpers -/

/-- An open link at address 0x42, changed by `f`. -/
def node (f : Link → Link) : State := { State.reset with linkOpen := true, link := f (Link.afterOpen 0x42 0 0 0) }

/-- The open link at address 0x42. -/
def fresh : State := node id

/-- The next state of an outcome, if it has one. -/
def nextOf (o : Host.Outcome State Fault Refusal) : Option State :=
  match o with
  | .next s => some s
  | .fault _ => none
  | .refused _ => none

/-- The refusal of an outcome, if it is one. -/
def refusalOf (o : Host.Outcome State Fault Refusal) : Option Refusal :=
  match o with
  | .next _ => none
  | .fault _ => none
  | .refused r => some r

/-- The fault of an outcome, if it is one. -/
def faultOf (o : Host.Outcome State Fault Refusal) : Option Fault :=
  match o with
  | .next _ => none
  | .fault f => some f
  | .refused _ => none

/-- The last reply of the next state. -/
def replyOf (o : Host.Outcome State Fault Refusal) : Option Reply := (nextOf o).bind fun s => s.replies.getLast?

/-- A field of the link of the next state. -/
def linkOf {α : Type} (f : Link → α) (o : Host.Outcome State Fault Refusal) : Option α := (nextOf o).map fun s => f s.link

/-- The output trace of the next state. -/
def traceOf (o : Host.Outcome State Fault Refusal) : Option (List Output) := (nextOf o).map fun s => s.trace

/-- The instruction that is the whole of some bytes. -/
def whole (l : Level) (bs : List Byte) : Option Instr :=
  match decodeAt l bs with
  | .ok (i, []) => some i
  | .ok (_, _ :: _) => none
  | .error _ => none

/-- Why some bytes are no instruction. -/
def errorOf (l : Level) (bs : List Byte) : Option DecodeError :=
  match decodeAt l bs with
  | .ok _ => none
  | .error e => some e

/-- The header of a packet between 0x42 and 0x41. -/
def header (k : Kind) (seq src dst : Byte) : Header :=
  { parity := 0, version := 1, encrypted := false, port := 0, kind := k, seq := seq, src := src, dst := dst }

/-- The packet of vector V-A (Scenario A), its CRC not yet computed. -/
def pktA : Packet :=
  { toHeader := header .data 0 0x42 0x41, msg := some { command := 1, parameter := 0 }, payload := [], crc := none, fail := false }

/-- The packet of vector V-D as DECODE gives it. -/
def pktD : Packet :=
  { toHeader := header .data 5 0x41 0x42, msg := some { command := 0x20, parameter := 0x1234 }, payload := [0x01]
    crc := some 0x6CB9, fail := false }

/-- The packet of vector V-ENC1. -/
def pktReq : Packet :=
  { toHeader := header .request 0 0x42 0x41, msg := some { command := 0x30, parameter := 0x0102 }, payload := [], crc := none
    fail := false }

/-- A control packet, as DECODE gives it. -/
def ctl (k : Kind) (seq src dst : Byte) : Packet :=
  { toHeader := header k seq src dst, msg := none, payload := [], crc := none, fail := false }

/-- The template of Scenario A, with a kind and a payload. -/
def tmpl (k : Kind) (payload : List Byte) : Template :=
  { kind := k, version := 1, encrypted := false, port := 0, src := 0x42, dst := 0x41
    msg := { command := 1, parameter := 0 }, payload := payload }

/-- The wire form of vector V-A. -/
def wireA : List Byte :=
  [0x01, 0x10, 0x41, 0x10, 0x40, 0x10, 0x40, 0x42, 0x41, 0x10, 0x41, 0x10, 0x40, 0x10, 0x40, 0x10, 0x40, 0x10, 0x40, 0x71, 0x10,
   0x57, 0x04]

/-- The wire form of vector V-D. -/
def wireD : List Byte :=
  [0x01, 0x10, 0x41, 0x10, 0x40, 0x05, 0x41, 0x42, 0x20, 0x34, 0x12, 0x10, 0x41, 0x10, 0x40, 0x10, 0x41, 0xB9, 0x6C, 0x04]

/-- A node with `h` in flight in state `x`, last sent at time 1. -/
def sender (x : SendState) (h : Packet) (acks : List Packet) : State :=
  node fun l => { l with sendState := x, qOut := [h], qAck := acks, tSend := 1 }

/-- The time passed since `since`, modulo `2^TIME_W` where the width is finite (R15, R372). -/
def waited (s : State) (now since : Nat) : Nat :=
  match s.params.timeW with
  | none => now - since
  | some w => (now + 2 ^ w - since % 2 ^ w) % 2 ^ w

/-- `s` in an environment where `k` handler calls return and the next one never does. -/
def stuckHandler (k : Nat) (s : State) : State := { s with env := { Env.quiet with handlerStall := some k } }

/-- `s` in a quiet environment but for steps of other agents. -/
def beside (g : Gaps) (s : State) : State := { s with env := { Env.quiet with gaps := g } }

/-- What phase 3 of a TICK at time `now` starts from. -/
def atPhase3 (now : Nat) (s : State) : State :=
  runAgents s.env.gaps.beforePhase3
    (phase2 now (runAgents s.env.gaps.beforePhase2 (phase1 (runAgents s.env.gaps.beforePhase1 (startTick now s)))))

/-- `s` after one TICK. -/
def after (now : Nat) (s : State) : State := (nextOf (exec (.tick now) s)).getD s

/-! ### WellFormed: an ill-formed term for each check -/

theorem test_wf_enqueue_payload : (Instr.enqueue (tmpl .data (List.replicate 65536 0))).wf = false := by
  simp [Instr.wf, tmpl, -List.reduceReplicate]
theorem test_wf_crc16_length : (Instr.crc16 [0x00] 2).wf = false := by decide +kernel
theorem test_wf_encode_kind : (Instr.encode (ctl .reserved 0 0x42 0x41)).wf = false := by decide +kernel
theorem test_wf_encode_message : (Instr.encode { pktA with msg := none }).wf = false := by decide +kernel
theorem test_wf_encode_payload : (Instr.encode { ctl .positiveAck 0 0x42 0x41 with payload := List.replicate 65536 0 }).wf = false := by
  simp [Instr.wf, -List.reduceReplicate]
theorem test_wf_decode_short : (Instr.decode [0x01]).wf = false := by decide +kernel
theorem test_wf_decode_start : (Instr.decode [0x41, 0x04]).wf = false := by decide +kernel
theorem test_wf_decode_end : (Instr.decode [0x01, 0x41]).wf = false := by decide +kernel
theorem test_wf_decode_inner_end : (Instr.decode [0x01, 0x04, 0x04]).wf = false := by decide +kernel
theorem test_wf_content : (Instr.content 0x01).wf = false ∧ (Instr.content 0x04).wf = false := by decide +kernel
theorem test_wf_escAny : (Instr.escAny 0x4A).wf = false := by decide +kernel
theorem test_wf_plain : (Instr.plain 0x10).wf = false := by decide +kernel
theorem test_wf_formatC : (Instr.formatC (header .data 0 0x42 0x41)).wf = false := by decide +kernel
theorem test_wf_formatM_kind : (Instr.formatM (header .positiveAck 0 0x42 0x41) ⟨1, 0⟩ [] 0).wf = false := by decide +kernel
theorem test_wf_formatM_payload :
    (Instr.formatM (header .data 0 0x42 0x41) ⟨1, 0⟩ (List.replicate 65536 0) 0).wf = false := by
  simp [Instr.wf, -List.reduceReplicate]

/-! ### Decode: every constructor, from an encoding written out by hand -/

/-- R123; operands in the model's layout (log 3). -/
theorem test_decode_host_operations :
    whole .operation [0x01, 0x42] = some (.openLink 0x42) ∧
    whole .operation [0x02] = some .close ∧
    whole .operation [0x03, 0x01, 0x00, 0x42, 0x41, 0x01, 0x00, 0x00, 0x00] = some (.enqueue (tmpl .data [])) ∧
    whole .operation [0x04, 0x01, 0xC8, 0x01] = some (.setConfig 1 200) ∧
    whole .operation [0x05, 0xC9, 0x01] = some (.tick 201) ∧
    whole .operation [0x06, 0x04] = some (.rxByte 0x04) := by decide +kernel

/-- R123; operands in the model's layout (log 3). -/
theorem test_decode_units :
    whole .operation [0x10, 0x03, 0x31, 0x32, 0x33, 0x02] = some (.crc16 [0x31, 0x32, 0x33] 2) ∧
    whole .operation [0x11, 0x02, 0x10, 0x00] = some (.stuff [0x10, 0x00]) ∧
    whole .operation [0x12, 0x02, 0x10, 0x41] = some (.unstuff [0x10, 0x41]) ∧
    whole .operation [0x13, 0x01, 0x00, 0x00, 0x42, 0x41, 0x04, 0x01, 0x00, 0x00, 0x00] = some (.encode pktA) ∧
    whole .operation [0x14, 0x02, 0x01, 0x04] = some (.decode [0x01, 0x04]) := by decide +kernel

/-- R124: the register numbers. -/
theorem test_decode_registers :
    whole .register [0x00, 0x42] = some (.setLocalAddr 0x42) ∧
    whole .register [0x01, 0x32] = some (.setAckTimeout 50) ∧
    whole .register [0x02, 0xC8, 0x01] = some (.setRespTimeout 200) ∧
    whole .register [0x03, 0xFF] = some (.setMaxRetx 255) ∧
    whole .register [0x04, 0x01] = some (.setIdleDelay 1) ∧
    whole .register [0x05, 0x0B, 0x00] = some (.setMaxFrame 11) ∧
    whole .register [0x06, 0x07] = some (.setWorkerPriority 7) ∧
    whole .register [0x07] = some (.setReserved7) := by decide +kernel

/-- R111: the byte classes of the stream. -/
theorem test_decode_stream :
    whole .stream [0x01] = some (.soh) ∧ whole .stream [0x04] = some (.eot) ∧
    whole .stream [0x10] = some (.content 0x10) := by decide +kernel

/-- R121: the escape pairs; R175: any other pair, and a dangling shift marker. -/
theorem test_decode_content :
    whole .content [0x10, 0x40] = some (.esc00) ∧ whole .content [0x10, 0x41] = some (.esc01) ∧
    whole .content [0x10, 0x42] = some (.esc02) ∧ whole .content [0x10, 0x43] = some (.esc03) ∧
    whole .content [0x10, 0x44] = some (.esc04) ∧ whole .content [0x10, 0x4A] = some (.esc0A) ∧
    whole .content [0x10, 0x4D] = some (.esc0D) ∧ whole .content [0x10, 0x50] = some (.esc10) ∧
    whole .content [0x10, 0x57] = some (.esc17) ∧ whole .content [0x10, 0x99] = some (.escAny 0x99) ∧
    whole .content [0x10] = some (.shiftDangling) ∧ whole .content [0x41] = some (.plain 0x41) := by
  decide +kernel

/-- R114: header byte 1, `eaaaakkk`. -/
theorem test_decode_kinds :
    whole .header [0b00000000] = some (.kindData false 0) ∧
    whole .header [0b00001001] = some (.kindReserved false 1) ∧
    whole .header [0b01000010] = some (.kindPositiveAck false 8) ∧
    whole .header [0b10101011] = some (.kindNegativeAck true 5) ∧
    whole .header [0b11111100] = some (.kindRequest true 15) ∧
    whole .header [0b01000101] = some (.kind5 false 8) ∧
    whole .header [0b10000110] = some (.kind6 true 0) ∧
    whole .header [0b00010111] = some (.kind7 false 2) := by decide +kernel

/-- V-ENC5 (its last packet), V-ENC3, V-ENC5 (its first): R112, R115, R117. -/
theorem test_decode_frames :
    whole .frame [0xA1, 0xAB, 0x80, 0x0A, 0x0D] =
      some (.formatC { parity := 2, version := 0x21, encrypted := true, port := 5, kind := .negativeAck, seq := 0x80, src := 0x0A,
                       dst := 0x0D }) ∧
    whole .frame [0xFF, 0xFC, 0xFF, 0x10, 0x17, 0x04, 0xFF, 0xFF, 0x09, 0x00, 0x00, 0x01, 0x02, 0x03, 0x04, 0x0A, 0x0D, 0x10, 0x17,
        0x3F, 0xDF] =
      some (.formatM { parity := 3, version := 0x3F, encrypted := true, port := 0xF, kind := .request, seq := 0xFF, src := 0x10,
                       dst := 0x17 } ⟨0x04, 0xFFFF⟩ [0x00, 0x01, 0x02, 0x03, 0x04, 0x0A, 0x0D, 0x10, 0x17] 0xDF3F) ∧
    whole .wire [0x01, 0x10, 0x41, 0x10, 0x42, 0x07, 0x42, 0x41, 0x04] = some (.wire [0x01, 0x02, 0x07, 0x42, 0x41]) := by
  decide +kernel

/-- Bytes that are nothing: an unknown code (R123), operands cut off, a register number above 7, a wire form with a bare 01 in it. -/
theorem test_decode_rejects :
    errorOf .operation [0x15, 0x00] = some (.badOp 0x15) ∧ errorOf .operation [0x01] = some .truncated ∧
    errorOf .operation [0x04, 0x08, 0x00] = some .badOperand ∧ errorOf .wire [0x01, 0x01, 0x04] = some .badOperand ∧
    errorOf .frame [0x41, 0x40, 0x07, 0x42, 0x41] = some .truncated := by decide +kernel

/-- Table words: leftmost byte first, an operation with operands of zeros (log 2). -/
theorem test_decodeTableWord :
    decodeTableWord 8 0x05 = some (.tick 0) ∧ decodeTableWord 8 0x00 = some (.setLocalAddr 0) ∧
    decodeTableWord 16 0x104A = some .esc0A ∧ decodeTableWord 16 0x0104 = some (.wire []) ∧
    decodeTableWord 8 0xFA = some (.kindPositiveAck true 15) ∧
    decodeTableWord 40 0x0102074241 = some (.formatC (header .positiveAck 7 0x42 0x41)) ∧
    (nextOf (step (State.reset.withFetchWord 8 0x11))).map (·.replies) = some [.bytes []] := by decide +kernel

/-! ### Vectors of 95_test_vectors.md -/

/-- V-CRC5, V-CRC9. -/
theorem test_crc16 :
    replyOf (exec (.crc16 [0x31, 0x32, 0x33, 0x34, 0x35, 0x36, 0x37, 0x38, 0x39] 9) fresh) = some (.word 0x4B37) ∧
    replyOf (exec (.crc16 [0x01, 0x00, 0x00, 0x42, 0x41, 0x01, 0x00, 0x00, 0x00, 0x00, 0x71, 0x17] 10) fresh) =
      some (.word 0x1771) := by decide +kernel

/-- V-ST2, V-ST3. -/
theorem test_stuff :
    stuff [0x00, 0x01, 0x02, 0x03, 0x04, 0x0A, 0x0D, 0x10, 0x17] =
      [0x10, 0x40, 0x10, 0x41, 0x10, 0x42, 0x10, 0x43, 0x10, 0x44, 0x10, 0x4A, 0x10, 0x4D, 0x10, 0x50, 0x10, 0x57] ∧
    stuff [0x05, 0x09, 0x0B, 0x0C, 0x0E, 0x0F, 0x11, 0x16, 0x18, 0x40, 0xFF] =
      [0x05, 0x09, 0x0B, 0x0C, 0x0E, 0x0F, 0x11, 0x16, 0x18, 0x40, 0xFF] := by decide +kernel

/-- V-UN3, V-UN4, V-UN6, V-UN8. -/
theorem test_unstuff :
    unstuff [0x10, 0x10] = [0x50] ∧ unstuff [0x41, 0x10] = [0x41] ∧ unstuff [0x10, 0x99] = [0xD9] ∧ unstuff [0x01] = [0x01] := by
  decide +kernel

/-- V-A: Scenario A. -/
theorem test_encode_scenarioA : replyOf (exec (.encode pktA) fresh) = some (.bytes wireA) := by decide +kernel

/-- V-ENC5: a control frame. -/
theorem test_encode_control :
    replyOf (exec (.encode (ctl .negativeAck 0 0x41 0x42)) fresh) =
      some (.bytes [0x01, 0x10, 0x41, 0x10, 0x43, 0x10, 0x40, 0x41, 0x42, 0x04]) := by decide +kernel

/-- V-D read backwards. -/
theorem test_decode_vD : replyOf (exec (.decode wireD) fresh) = some (.packet pktD) := by decide +kernel

/-- V-DEC7: `plen` does not fit the length. -/
theorem test_decode_plen :
    replyOf (exec (.decode [0x01, 0x41, 0x48, 0x07, 0x42, 0x41, 0x20, 0x34, 0x12, 0x05, 0x10, 0x40, 0xAA, 0x05, 0x98, 0x04]) fresh) =
      some (.packet { parity := 1, version := 1, encrypted := false, port := 9, kind := .data, seq := 7, src := 0x42, dst := 0x41,
                      msg := some ⟨0x20, 0x1234⟩, payload := [0xAA], crc := some 0x9805, fail := true }) := by decide +kernel

/-- V-RX6, its last byte: the bound fires on the end marker. -/
theorem test_rx_bound :
    linkOf (fun l => (l.rxBuf, l.qRaw)) (exec (.rxByte 0x04) (node fun l => { l with rxBuf := 0x01 :: List.replicate 255 0x55 })) =
      some ([], []) := by decide +kernel

/-- V-RX10: a shift marker does not protect an end marker. -/
theorem test_rx_shift :
    linkOf (fun l => (l.rxBuf, l.qRaw)) (exec .eot (node fun l => { l with rxBuf := [0x01, 0x41, 0x10] })) =
      some ([], [[0x01, 0x41, 0x10, 0x04]]) := by decide +kernel

/-- P1, step 4: V-ENC5's wire form becomes one RawFrame. -/
theorem test_wire :
    linkOf (fun l => l.qRaw) (exec (.wire [0x01, 0x02, 0x00, 0x41, 0x42]) fresh) =
      some [[0x01, 0x10, 0x41, 0x10, 0x42, 0x10, 0x40, 0x41, 0x42, 0x04]] := by decide +kernel

/-- V-H6, V-H7. -/
theorem test_open :
    replyOf (exec (.openLink 0x42) fresh) = some (.refused .alreadyOpen) ∧
    replyOf (exec (.openLink 0x42) { State.reset with env := { Env.quiet with transportOpens := false } }) =
      some (.refused .transportInit) := by decide +kernel

/-- V-H2, and P1 step 1. -/
theorem test_enqueue :
    replyOf (exec (.enqueue (tmpl .positiveAck [])) fresh) = some (.refused .badKind) ∧
    linkOf (fun l => (l.qOut, l.seqCtr)) (exec (.enqueue (tmpl .data [])) fresh) = some ([pktA], 1) := by decide +kernel

/-- V-H3, V-H4: 245 payload bytes are too many, 244 are not. -/
theorem test_enqueue_length :
    replyOf (exec (.enqueue (tmpl .data (List.replicate 245 0))) fresh) = some (.refused .tooLong) ∧
    replyOf (exec (.enqueue (tmpl .data (List.replicate 244 0))) fresh) = some .accepted := by decide +kernel

/-- V-H8. -/
theorem test_setConfig :
    replyOf (exec (.setMaxRetx 255) fresh) = some (.refused .badValue) ∧
    replyOf (exec (.setMaxFrame 11) fresh) = some (.refused .badValue) ∧
    replyOf (exec (.setConfig 7 0) fresh) = some (.refused .badReg) := by decide +kernel

/-- V-H10: held while a packet is in flight. -/
theorem test_setConfig_held :
    linkOf (fun l => (l.cfg.ackTimeout, l.pending)) (exec (.setAckTimeout 50) (sender .waitingForAck pktA [])) =
      some (200, [(.ackTimeout, 50)]) := by decide +kernel

/-- V-H11: no event, and the link is gone. -/
theorem test_close :
    (nextOf (exec .close (sender .waitingForAck pktA []))).map (fun s => (s.linkOpen, s.trace)) = some (false, [.transportClose]) := by
  decide +kernel

/-- V-UN6 and R121, R175 for the items of content. -/
theorem test_items :
    replyOf (exec (.escAny 0x99) fresh) = some (.bytes [0xD9]) ∧ replyOf (exec .esc0D fresh) = some (.bytes [0x0D]) ∧
    replyOf (exec .shiftDangling fresh) = some (.bytes []) ∧ replyOf (exec (.plain 0x41) fresh) = some (.bytes [0x41]) := by
  decide +kernel

/-- V-DEC2's and V-DEC5's header byte 1 (R116, R118, R210). -/
theorem test_kinds :
    replyOf (exec (.kindPositiveAck false 8) fresh) =
      some (.kind { encrypted := false, port := 8, kind := .positiveAck, format := .formatC, queue := some .qAck }) ∧
    replyOf (exec (.kind5 false 8) fresh) =
      some (.kind { encrypted := false, port := 8, kind := .undefined5, format := .formatC, queue := none }) := by decide +kernel

/-- V-DEC10: the CRC bytes swapped; V-A: as they should be. -/
theorem test_formatM :
    replyOf (exec (.formatM (header .data 0 0x42 0x41) ⟨1, 0⟩ [] 0x7117) fresh) =
      some (.packet { pktA with crc := some 0x7117, fail := true }) ∧
    replyOf (exec (.formatM (header .data 0 0x42 0x41) ⟨1, 0⟩ [] 0x1771) fresh) =
      some (.packet { pktA with crc := some 0x1771 }) := by decide +kernel

/-- V-T3: the write of Scenario A. V-T9 and V-T7: the ack timeout at its limit and one tick before. -/
theorem test_tick_transmission :
    traceOf (exec (.tick 1) (sender .sending pktA [])) = some [.write wireA, .event (.onRawBytesSent wireA)] ∧
    linkOf (fun l => (l.sendState, l.tSend, l.qOut)) (exec (.tick 1) (sender .sending pktA [])) =
      some (.waitingForAck, 1, [{ pktA with crc := some 0x1771 }]) ∧
    traceOf (exec (.tick 201) (node fun l => { l with sendState := .waitingForAck, qOut := [pktA], tSend := 1, ackToCnt := 3 })) =
      some [.event (.onAckNackObserved true none), .event (.onAckTimeout pktA)] ∧
    traceOf (exec (.tick 200) (sender .waitingForAck pktA [])) = some [] := by decide +kernel

/-- P3, step 2: a Data packet is received, acknowledged and delivered, and Idle moves on. -/
theorem test_tick_receive :
    traceOf (exec (.tick 10) (node fun l => { l with qRaw := [wireD] })) = some [.event (.onPacketReceived pktD)] ∧
    linkOf (fun l => (l.qOut, l.lastAckSeq, l.sendState)) (exec (.tick 10) (node fun l => { l with qRaw := [wireD] })) =
      some ([ctl .positiveAck 5 0x42 0x41], some 5, .sending) := by decide +kernel

/-- U9, U13: a write, or a handler, that never returns leaves the worker where it stood; the next TICK does nothing. -/
theorem test_tick_stalled :
    (let s : State := { sender .sending pktA [] with env := { Env.quiet with writeReturns := false } }
     linkOf (fun l => (l.sendState, l.stalled)) (exec (.tick 1) s) = some (.sending, true) ∧
     traceOf (exec (.tick 1) s) = some [.write wireA] ∧ after 2 (after 1 s) = after 1 s) ∧
    (let s := stuckHandler 0 (node fun l => { l with qRaw := [wireD] })
     linkOf (fun l => (l.sendState, l.stalled)) (exec (.tick 1) s) = some (.idle, true) ∧
     linkOf (fun l => l.rxBuf) (exec (.rxByte 0x01) (after 1 s)) = some [0x01]) := by decide +kernel

/-- R327: a CLOSE that begins during the write lets the TICK end, and then the transport is closed. R93: a frame whose last byte comes
before phase 1 is decoded in that TICK; one whose last byte comes after it waits. R331, R332: a link with waiting entries is idle. -/
theorem test_tick_beside_others :
    (let receiving := node fun l => { l with rxBuf := wireD.dropLast }
     traceOf (exec (.tick 1) (beside { Gaps.none with duringWrite := [.close] } (sender .sending pktA []))) =
       some [.write wireA, .event (.onRawBytesSent wireA), .transportClose] ∧
     traceOf (exec (.tick 1) (beside { Gaps.none with beforePhase1 := [.rxByte 0x04] } receiving)) =
       some [.event (.onPacketReceived pktD)] ∧
     linkOf (fun l => l.qRaw) (exec (.tick 1) (beside { Gaps.none with beforePhase2 := [.rxByte 0x04] } receiving)) =
       some [wireD]) ∧
    linkOf (fun l => (l.cfg.maxRetx, l.pending)) (exec (.tick 1) (node fun l => { l with pending := [(.maxRetx, 7)], qOut := [pktA] })) =
      some (7, []) := by decide +kernel

/-- R350: `onAckTimeout` stands under both classes. -/
theorem test_errors_of_ack_timeout : errorsOfEvent (.onAckTimeout pktA) = [.protocolTimeout, .retryExhausted] := by decide +kernel

/-! ### Witnesses: the hypotheses of the statements can be met -/

/-- A Data packet as ENCODE completes it. -/
def sentA : Packet := { pktA with crc := some 0x1771 }

/-- The unstuffed form of vector V-A. -/
def unstuffedA : List Byte := [0x01, 0x00, 0x00, 0x42, 0x41, 0x01, 0x00, 0x00, 0x00, 0x00, 0x71, 0x17]

theorem witness_CrcUpdatesByTable :
    (∀ b : Byte, 0 < [b].length) ∧ 0 ≤ ([] : List Byte).length ∧ 1 ≤ ([0x31] : List Byte).length := by decide +kernel
theorem witness_CrcSelfCheck : isMessage pktA.kind = true ∧ unstuffed pktA = some unstuffedA := by decide +kernel
theorem witness_StuffEscapesReservedBytes :
    (0x17 : Byte) ∈ ([0x00, 0x01, 0x02, 0x03, 0x04, 0x0A, 0x0D, 0x10, 0x17] : List Byte) ∧
    (0x18 : Byte) ∉ ([0x00, 0x01, 0x02, 0x03, 0x04, 0x0A, 0x0D, 0x10, 0x17] : List Byte) := by decide +kernel
theorem witness_UnstuffConsumesEscapes : (0x11 : Byte) ≠ 0x10 := by decide
theorem witness_StuffedContentHasNoDelimiter :
    (0x10 : Byte) ∈ stuff [0x01] ∧ isReserved 0x10 = true ∧ stuff [0x01] = [] ++ [0x10] ++ [0x41] := by decide +kernel
theorem witness_EncodeWritesMessageFrames :
    isMessage pktA.kind = true ∧ pktA.msg = some ⟨1, 0⟩ ∧ pktA.payload.length ≤ 65535 ∧
    ({ pktA with payload := List.replicate 65535 0 } : Packet).payload.length ≤ 65535 := by
  simp [pktA, header, isMessage, -List.reduceReplicate]
theorem witness_EncodeWritesControlFrames :
    isControl (ctl .positiveAck 7 0x42 0x41).kind = true ∧ isControl (ctl .negativeAck 7 0x42 0x41).kind = true := by decide +kernel
/-- Also two packets of a message kind that the formats do not foresee: no message, and a payload one byte too long (log 14). -/
theorem witness_OutsideTheDomainIsRefused :
    ([0x31] : List Byte).length < 2 ∧ (isMessage .reserved = false ∧ isControl .reserved = false) ∧
    (let s := node fun l => { l with lastNow := 5 }
     running s = true ∧ s.link.stalled = false ∧ s.params.timeW = none ∧ 4 < s.link.lastNow) ∧
    isMessage ({ pktA with msg := none } : Packet).kind = true ∧
    (let p : Packet := { pktA with payload := List.replicate 65536 0 }
     isMessage p.kind = true ∧ p.msg = some ⟨1, 0⟩ ∧ 65535 < p.payload.length) := by
  refine ⟨by decide, by decide, by decide +kernel, by decide +kernel, by decide +kernel, rfl, ?_⟩
  simp [-List.reduceReplicate]
/-- One frame on each side of each length bound: 4 and 5 bytes, 11 and 12 bytes, of a message kind and of a control kind. -/
theorem witness_DecodeReadsFrames :
    (unstuff [0x41, 0x40, 0x43, 0x44]).length < 5 ∧ (decodeFrame [0x01, 0x41, 0x42, 0x07, 0x42, 0x41, 0x04]).kind = .positiveAck ∧
    (decodeFrame ([0x01] ++ List.replicate 11 0x48 ++ [0x04])).kind = .data ∧ (unstuff (List.replicate 11 0x48)).length < 12 ∧
    (decodeFrame ([0x01] ++ List.replicate 12 0x48 ++ [0x04])).kind = .data ∧ 12 ≤ (unstuff (List.replicate 12 0x48)).length := by
  decide +kernel
theorem witness_DecodeInvertsEncode :
    validPacket pktD = true ∧ validPacket sentA = true ∧ validPacket (ctl .positiveAck 7 0x42 0x41) = true := by decide +kernel
theorem witness_ContentItemsUnstuff : (0x0F : Byte) ≠ 0x10 ∧ (0x11 : Byte) ≠ 0x10 := by decide
theorem witness_FormatRowsDecode :
    isMessage (header .positiveAck 7 0x42 0x41).kind = false ∧ isMessage (header .data 0 0x42 0x41).kind = true ∧
    ([0x01] : List Byte).length ≤ 65535 ∧ (List.replicate 65535 (0 : Byte)).length ≤ 65535 := by
  simp [header, isMessage, -List.reduceReplicate]
theorem witness_DecodeEncodeAgree :
    (Instr.encode pktA).wf = true ∧ (Instr.formatM (header .data 0 0x42 0x41) ⟨1, 0⟩ [0x01] 7).wf = true ∧
    (Instr.decode wireD).wf = true ∧ (Instr.enqueue (tmpl .request [0x01])).wf = true := by decide +kernel
theorem witness_OperandsEndWhereTheyEnd :
    ((Instr.encode pktA).wf = true ∧ (encode (.encode pktA)).1 = .operation) ∧
    (Instr.setMaxFrame 12).wf = true ∧ (encode (.setMaxFrame 12)).1 = .register := by decide +kernel
/-- Also a link whose `Q_RAW` is full. -/
theorem witness_ReceiveByteReassembles :
    fresh.linkOpen = true ∧
    (let s : State := { node fun l => { l with rxBuf := [0x01], qRaw := [[0x01, 0x04]] } with
       params := { Config.defaults with qDepth := some 1 } }
     s.linkOpen = true ∧ 0 < s.link.rxBuf.length ∧ s.params.qDepth = some s.link.qRaw.length) := by decide +kernel
/-- No frame, a frame one byte short of `MAX_FRAME`, a frame of `MAX_FRAME` bytes, a closed link. -/
theorem witness_StreamRowsReachTheReassembler :
    (fresh.linkOpen = true ∧ fresh.link.rxBuf = [] ∧ (0x04 : Byte) ≠ 0x01) ∧
    (let s := node fun l => { l with rxBuf := 0x01 :: List.replicate 254 0x55 }
     s.linkOpen = true ∧ s.link.rxBuf ≠ [] ∧ s.link.rxBuf.length + 1 = s.link.cfg.maxFrame.toNat ∧ (0x01 : Byte) ≠ 0x04) ∧
    (let s := node fun l => { l with rxBuf := 0x01 :: List.replicate 255 0x55 }
     s.linkOpen = true ∧ s.link.rxBuf ≠ [] ∧ s.link.cfg.maxFrame.toNat + 1 = s.link.rxBuf.length + 1) ∧
    State.reset.linkOpen = false := by decide +kernel
/-- A wire form of exactly `MAX_FRAME` bytes, and a closed link. -/
theorem witness_WireFormIsReceivedWhole :
    (let s := node fun l => { l with cfg := { l.cfg with maxFrame := 23 } }
     s.linkOpen = true ∧ s.link.rxBuf = [] ∧ (wireForm unstuffedA).length = s.link.cfg.maxFrame.toNat) ∧
    State.reset.linkOpen = false := by decide +kernel
/-- A wire form one byte longer than `MAX_FRAME`. -/
theorem witness_OverlongWireFormIsDiscarded :
    (let s := node fun l => { l with cfg := { l.cfg with maxFrame := 22 } }
     s.linkOpen = true ∧ s.link.rxBuf = [] ∧ s.link.cfg.maxFrame.toNat + 1 = (wireForm unstuffedA).length) := by decide +kernel
theorem witness_SentFrameArrivesUnchanged :
    validPacket sentA = true ∧ unstuffed sentA = some unstuffedA ∧ fresh.linkOpen = true ∧ fresh.link.rxBuf = [] ∧
    fresh.link.qRaw = [] ∧ fresh.params.qDepth = none ∧ (wireForm unstuffedA).length ≤ fresh.link.cfg.maxFrame.toNat := by
  decide +kernel
theorem witness_OpenCreatesTheLink :
    fresh.linkOpen = true ∧ (State.reset.linkOpen = false ∧ State.reset.env.transportOpens = true) ∧
    (let s : State := { State.reset with env := { Env.quiet with transportOpens := false } }
     s.linkOpen = false ∧ s.env.transportOpens = false) := by decide +kernel
theorem witness_CloseEndsTheLink :
    State.reset.linkOpen = false ∧
    (fresh.linkOpen = true ∧ fresh.link.stalled = false ∧ fresh.env.gaps.duringClose = []) ∧
    (let s := node fun l => { l with stalled := true }
     s.linkOpen = true ∧ s.link.stalled = true ∧ s.env.gaps.duringClose = []) := by decide +kernel
theorem witness_ClosedLinkRefuses :
    State.reset.linkOpen = false ∧ (node fun l => { l with stop := true }).linkOpen = true ∧
    (node fun l => { l with stop := true }).link.stop = true := by decide +kernel
theorem witness_ResetIsClosed :
    (encode (.setMaxRetx 3)).1 = .register ∧ (encode .soh).1 = .stream ∧ 1 ≤ ([0x31] : List Byte).length ∧
    isMessage pktA.kind = true ∧ isControl (ctl .negativeAck 7 0x42 0x41).kind = true := by decide +kernel
theorem witness_EnqueueAssignsTheNextNumber :
    running fresh = true ∧ acceptable fresh.link.cfg (tmpl .request (List.replicate 244 0)) = true ∧
    isFull fresh.params.qDepth fresh.link.qOut = false ∧ isFull (some 2) [pktA] = false := by decide +kernel
theorem witness_SequenceNumbersWrap :
    running fresh = true ∧ fresh.params.qDepth = none ∧
    (∀ t ∈ List.replicate 256 (tmpl .data []), acceptable fresh.link.cfg t = true) ∧
    (List.replicate 256 (tmpl .data [])).length = 256 := by decide +kernel
/-- Each bound of R333 at its last legal value and one beyond, on an idle link, a busy one, a closing one and a closed one. -/
theorem witness_SetConfigChecksThenWritesOrHolds :
    (running fresh = true ∧ (fresh.link.sendState = .idle ∧ fresh.link.rxBuf = [])) ∧
    (running (sender .sending pktA []) = true ∧ (sender .sending pktA []).link.sendState ≠ .idle) ∧
    (running (node fun l => { l with rxBuf := [0x01] }) = true ∧ (node fun l => { l with rxBuf := [0x01] }).link.rxBuf ≠ []) ∧
    ((node fun l => { l with stop := true }).link.stop = true ∧ State.reset.linkOpen = false) ∧
    (6 : BitVec 3) ≠ 7 ∧ (255 ≤ 255 ∧ ¬ 256 ≤ 255) ∧ (255 < 2 ^ 8 ∧ ¬ 256 < 2 ^ 8) ∧ (254 ≤ 254 ∧ ¬ 255 ≤ 254) ∧
    (12 ≤ 12 ∧ ¬ 12 ≤ 11) ∧ 65535 ≤ 65535 ∧ ¬ 65536 ≤ 65535 := by decide +kernel
/-- A node whose times have 8 bits, and the bounds of the register rows. -/
theorem witness_RegisterRowsWriteTheirRegister :
    (let s : State := { fresh with params := { Config.defaults with timeW := some 8 } }
     running s = true ∧ s.link.sendState = .idle ∧ s.link.rxBuf = [] ∧ (∀ w ∈ s.params.timeW, 255 < 2 ^ w) ∧
     ¬ ∀ w ∈ s.params.timeW, 256 < 2 ^ w) ∧
    (running (sender .waitingForAck pktA []) = true ∧ (sender .waitingForAck pktA []).link.sendState ≠ .idle) ∧
    ((254 : Byte).toNat ≤ 254 ∧ 254 < (255 : Byte).toNat) ∧ (12 ≤ (12 : Word16).toNat ∧ (11 : Word16).toNat < 12) ∧
    (node fun l => { l with stop := true }).link.stop = true ∧ State.reset.linkOpen = false := by decide +kernel
/-- An idle link with empty queues; an idle link with waiting entries; links that are busy receiving and busy sending. -/
theorem witness_HeldRequestsWaitForIdle :
    (let s := node fun l => { l with pending := [(.maxRetx, 0)] }
     plainTick s 0 = true ∧ s.link.sendState = .idle ∧ s.link.rxBuf = [] ∧ s.link.qOut = []) ∧
    (let s := node fun l => { l with pending := [(.maxRetx, 0)], qOut := [pktA], qRaw := [wireD], qData := [pktD] }
     quietTick s 0 = true ∧ s.link.sendState = .idle ∧ s.link.rxBuf = [] ∧ (nextOf (exec (.tick 0) s)).isSome = true) ∧
    (let s := node fun l => { l with pending := [(.maxRetx, 0)], rxBuf := [0x01] }
     quietTick s 0 = true ∧ s.link.rxBuf ≠ [] ∧ (nextOf (exec (.tick 0) s)).isSome = true) ∧
    (let s := node fun l => { l with pending := [(.maxRetx, 0)], sendState := .sending, qOut := [pktA] }
     quietTick s 0 = true ∧ s.link.sendState ≠ .idle ∧ (nextOf (exec (.tick 0) s)).isSome = true) := by decide +kernel
/-- Phase 3 reached with steps of other agents in every gap, CLOSE among them, and without CLOSE; phase 3 not reached, with a CLOSE and
without; the two stops of states no run reaches; an undisturbed TICK. -/
theorem witness_TickRunsPhasesInOrder :
    (let s := beside
       { Gaps.none with beforePhase1 := [.rxByte 0x01], beforePhase2 := [.enqueue (tmpl .data [])], duringWrite := [.close] }
       (sender .sending pktA [])
     running s = true ∧ ready s = true ∧ clockForward s 1 = true ∧ (atPhase3 1 s).link.stalled = false ∧
     linkOf (fun l => (l.stop, l.rxBuf, l.qOut.length)) (phase3 1 (atPhase3 1 s)) = some (true, [0x01], 2)) ∧
    (let s := beside { Gaps.none with beforePhase3 := [.setConfig 3 7] } (sender .sending pktA [])
     running s = true ∧ ready s = true ∧ clockForward s 1 = true ∧ (atPhase3 1 s).link.stalled = false ∧
     linkOf (fun l => (l.stop, l.pending)) (phase3 1 (atPhase3 1 s)) = some (false, [(.maxRetx, 7)])) ∧
    (let s : State := { node fun l => { l with qData := [pktD] } with
       env := { Env.quiet with handlerStall := some 0, gaps := { Gaps.none with beforePhase3 := [.close] } } }
     running s = true ∧ ready s = true ∧ clockForward s 0 = true ∧ (atPhase3 0 s).link.stalled = true ∧
     (atPhase3 0 s).link.stop = true) ∧
    (let s := stuckHandler 0 (node fun l => { l with qData := [pktD] })
     running s = true ∧ ready s = true ∧ undisturbed s = true ∧ clockForward s 0 = true ∧ (atPhase3 0 s).link.stalled = true ∧
     (atPhase3 0 s).link.stop = false) ∧
    (let s := node fun l => { l with sendState := .sending }
     running s = true ∧ ready s = true ∧ clockForward s 0 = true ∧ (atPhase3 0 s).link.stalled = false ∧
     faultOf (phase3 0 (atPhase3 0 s)) = some .peekEmpty) ∧
    (let s := sender .sending (ctl .reserved 0 0x42 0x41) []
     running s = true ∧ ready s = true ∧ clockForward s 0 = true ∧ (atPhase3 0 s).link.stalled = false ∧
     refusalOf (phase3 0 (atPhase3 0 s)) = some .encodeDomain) ∧
    running fresh = true ∧ ready fresh = true ∧ undisturbed fresh = true ∧ clockForward fresh 0 = true ∧
    fresh.linkOpen = true ∧ State.reset.linkOpen = false := by decide +kernel
theorem witness_StoppedTickIsEmpty :
    (node fun l => { l with stop := true }).linkOpen = true ∧ (node fun l => { l with stop := true }).link.stop = true ∧
    State.reset.linkOpen = false := by decide +kernel
theorem witness_IncomingForOthersIsDiscarded :
    fresh.link.qData = [] ∧
    (let s := node fun l => { l with qData := [{ pktD with dst := 0x43 }] }
     s.link.qData = [{ pktD with dst := 0x43 }] ∧ (0x43 : Byte) ≠ s.link.cfg.localAddr) := by decide +kernel
/-- On an idle node nothing answers a Request: how the witnesses below meet that premise. -/
theorem idle_answers_nothing {s : State} {P : Prop} (h : s.link.sendState = .idle) : ¬ (s.link.sendState ≠ .idle ∧ P) :=
  fun k => k.1 h

/-- Beside a head that is no Request nothing answers a Request: how the witnesses below meet that premise. -/
theorem head_answers_nothing {s : State} {x : Packet} {q : List Packet} {P : Packet → Prop} (hq : s.link.qOut = x :: q)
    (hx : x.kind ≠ .request) :
    ¬ (s.link.sendState ≠ .idle ∧ ∃ h r, s.link.qOut = h :: r ∧ h.kind = .request ∧ P h) := by
  rintro ⟨-, h, r, he, hk, -⟩
  rw [hq] at he
  cases he
  exact hx hk

/-- A duplicate, a failed Request and a new Request on an idle node, a new Data packet beside a Data packet in flight: none of them
answers a Request. -/
theorem witness_IncomingIsAcknowledgedAndDelivered :
    (let s := node fun l => { l with qData := [pktD], lastAckSeq := some 5 }
     s.env.handlerStall = none ∧ s.link.qData = [pktD] ∧ pktD.dst = s.link.cfg.localAddr ∧ s.link.sendState = .idle ∧
     s.link.lastAckSeq = some pktD.seq) ∧
    (let p : Packet := { pktD with kind := .request, fail := true }
     let s := node fun l => { l with qData := [p] }
     s.env.handlerStall = none ∧ s.link.qData = [p] ∧ p.dst = s.link.cfg.localAddr ∧ s.link.sendState = .idle ∧ p.fail = true ∧
     s.link.lastAckSeq ≠ some p.seq) ∧
    (let p : Packet := { pktD with kind := .request }
     let s := node fun l => { l with qData := [p] }
     s.env.handlerStall = none ∧ s.link.qData = [p] ∧ p.dst = s.link.cfg.localAddr ∧ s.link.sendState = .idle ∧
     ¬ (p.fail = true ∨ s.link.lastAckSeq = some p.seq) ∧ p.kind = .request) ∧
    (let s := node fun l => { l with qData := [pktD], qOut := [pktA], sendState := .waitingForAck }
     s.env.handlerStall = none ∧ s.link.qData = [pktD] ∧ pktD.dst = s.link.cfg.localAddr ∧ s.link.qOut = pktA :: [] ∧
     pktA.kind ≠ .request ∧ ¬ (pktD.fail = true ∨ s.link.lastAckSeq = some pktD.seq)) := by decide +kernel
/-- Two copies of one Data packet wait on an idle node; the node after the first TICK, with the acknowledgement of the first copy as its
head, and after the second. -/
theorem witness_DuplicateIsDeliveredOnce :
    (let s := node fun l => { l with qData := [pktD, pktD] }
     let t := after 10 s
     quietTick s 10 = true ∧ (nextOf (exec (.tick 10) s)) = some t ∧ quietTick t 11 = true ∧
     (nextOf (exec (.tick 11) t)) = some (after 11 t) ∧ s.link.qData = pktD :: pktD :: [] ∧ pktD.kind = .data ∧
     pktD.fail = false ∧ pktD.dst = s.link.cfg.localAddr ∧ s.link.pending = [] ∧ s.link.sendState = .idle ∧
     t.link.qOut = [ctl .positiveAck 5 0x42 0x41] ∧ (ctl .positiveAck 5 0x42 0x41).kind ≠ .request ∧ s.link.qOut = [] ∧
     s.link.lastAckSeq ≠ some pktD.seq) := by decide +kernel
/-- V-I9's reply that reports a restart, and V-I6's that does not. -/
theorem witness_AnswerSetsTheResponseFlag :
    (let p : Packet := { pktD with seq := 0, payload := [0x80] }
     let s : State := { node fun l => { l with qData := [p], qOut := [pktReq], sendState := .waitingForResponse } with
       params := { Config.defaults with resetCmd := 0x20, resetMask := 0x80 } }
     s.env.handlerStall = none ∧ s.link.qData = p :: [] ∧ p.dst = s.link.cfg.localAddr ∧ s.link.sendState ≠ .idle ∧
     s.link.qOut = pktReq :: [] ∧ pktReq.kind = .request ∧ p.fail = false ∧ p.kind = .data ∧ p.seq = pktReq.seq ∧
     p.msg = some ⟨s.params.resetCmd, 0x1234⟩ ∧ p.payload = 0x80 :: [] ∧ (0x80 : Byte) &&& s.params.resetMask ≠ 0) ∧
    (let p : Packet := { pktD with seq := 0, payload := [] }
     let s := node fun l => { l with qData := [p], qOut := [pktReq], sendState := .waitingForAck }
     s.env.handlerStall = none ∧ s.link.qData = p :: [] ∧ p.dst = s.link.cfg.localAddr ∧ s.link.sendState ≠ .idle ∧
     s.link.qOut = pktReq :: [] ∧ pktReq.kind = .request ∧ p.fail = false ∧ p.kind = .data ∧ p.seq = pktReq.seq ∧
     p.payload = []) := by decide +kernel
theorem witness_IdleStartsSending :
    (fresh.link.sendState = .idle ∧ fresh.link.qOut = []) ∧
    (sender .idle pktA []).link.sendState = .idle ∧ (sender .idle pktA []).link.qOut ≠ [] := by decide +kernel
/-- V-T6: at the limit. -/
theorem witness_StaleAnswerIsDropped :
    (let s := node fun l => { l with sendState := .sending, qOut := [pktA], requestOpen := true, tReq := 100 }
     s.link.sendState = .sending ∧ s.link.qOut = pktA :: [] ∧ s.link.requestOpen = true ∧
     s.link.cfg.respTimeout = waited s 300 s.link.tReq) := by decide +kernel
/-- V-T3 with steps of other agents during the write, V-T4, V-T5 (one tick before the answer is stale), and a Data packet that reports a
restart. -/
theorem witness_SendingWritesAndDisposes :
    (let s := beside { Gaps.none with duringWrite := [.rxByte 0x01, .enqueue (tmpl .data [])] } (sender .sending pktA [])
     s.linkOpen = true ∧ ready s = true ∧ returns s = true ∧ s.link.sendState = .sending ∧ s.link.qOut = pktA :: [] ∧
     encodePacket pktA = some wireA ∧ isMessage pktA.kind = true ∧ s.link.requestOpen = false ∧ pktA.payload = []) ∧
    (let a := ctl .positiveAck 7 0x42 0x41
     let s := sender .sending a []
     s.linkOpen = true ∧ ready s = true ∧ returns s = true ∧ s.link.sendState = .sending ∧ s.link.qOut = a :: [] ∧
     isControl a.kind = true ∧ a.kind ≠ .data ∧ s.link.requestOpen = false ∧
     encodePacket a = some [0x01, 0x10, 0x41, 0x10, 0x42, 0x07, 0x42, 0x41, 0x04]) ∧
    (let s := node fun l => { l with sendState := .sending, qOut := [pktA], requestOpen := true, tReq := 100 }
     s.linkOpen = true ∧ ready s = true ∧ returns s = true ∧ s.link.sendState = .sending ∧ s.link.qOut = pktA :: [] ∧
     encodePacket pktA = some wireA ∧ isMessage pktA.kind = true ∧ pktA.payload = [] ∧ s.link.requestOpen = true ∧
     waited s 299 s.link.tReq + 1 = s.link.cfg.respTimeout) ∧
    (let s : State := { sender .sending { pktD with seq := 0, payload := [0x80] } [] with
       params := { Config.defaults with resetCmd := 0x20, resetMask := 0x80 } }
     let h : Packet := { pktD with seq := 0, payload := [0x80] }
     s.linkOpen = true ∧ ready s = true ∧ returns s = true ∧ s.link.sendState = .sending ∧ s.link.qOut = h :: [] ∧
     (encodePacket h).isSome = true ∧ s.link.requestOpen = false ∧ h.kind = .data ∧
     h.msg = some ⟨s.params.resetCmd, 0x1234⟩ ∧ h.payload = 0x80 :: [] ∧ (0x80 : Byte) &&& s.params.resetMask ≠ 0) := by
  decide +kernel
/-- V-T14's queue: two acks that do not match, then one that does. -/
theorem witness_PositiveAckCompletesOrAwaitsAnswer :
    (let before := [ctl .positiveAck 9 0x41 0x42, ctl .negativeAck 8 0x41 0x42]
     let a := ctl .positiveAck 0 0x99 0x98
     let s := sender .waitingForAck pktA (before ++ [a])
     ready s = true ∧ s.env.handlerStall = none ∧ s.link.sendState = .waitingForAck ∧ s.link.qOut = pktA :: [] ∧
     s.link.qAck = before ++ a :: [] ∧ (∀ x ∈ before, x.seq ≠ pktA.seq) ∧ a.seq = pktA.seq ∧ a.kind = .positiveAck) ∧
    (let a := ctl .positiveAck 0 0x41 0x42
     let s := sender .waitingForAck pktReq [a]
     ready s = true ∧ s.env.handlerStall = none ∧ s.link.sendState = .waitingForAck ∧ s.link.qOut = pktReq :: [] ∧
     s.link.qAck = [] ++ a :: [] ∧ (∀ x ∈ ([] : List Packet), x.seq ≠ pktReq.seq) ∧ a.seq = pktReq.seq ∧
     a.kind = .positiveAck ∧ pktReq.kind = .request) := by decide +kernel
/-- V-T12 and V-T13: the third and the fourth NegativeAck. -/
theorem witness_NegativeAckRetriesOrFails :
    (let a := ctl .negativeAck 0 0x41 0x42
     let s := node fun l => { l with sendState := .waitingForAck, qOut := [pktA], qAck := [a], nackCnt := 3 }
     ready s = true ∧ s.env.handlerStall = none ∧ s.link.sendState = .waitingForAck ∧ s.link.qOut = pktA :: [] ∧
     s.link.qAck = [] ++ a :: [] ∧ (∀ x ∈ ([] : List Packet), x.seq ≠ pktA.seq) ∧ a.seq = pktA.seq ∧ a.kind = .negativeAck ∧
     s.link.nackCnt + 1 > s.link.cfg.maxRetx ∧ ¬ ((2 : BitVec 8) + 1 > s.link.cfg.maxRetx)) := by decide +kernel
/-- V-T15, at the limit of the ack timeout and one tick before; the same on a clock of 8 bits that has wrapped. -/
theorem witness_AckTimeoutRetriesOrFails :
    (let s := sender .waitingForAck pktA [ctl .positiveAck 9 0x41 0x42]
     ready s = true ∧ s.env.handlerStall = none ∧ s.link.sendState = .waitingForAck ∧ s.link.qOut = pktA :: [] ∧
     (∀ x ∈ s.link.qAck, x.seq ≠ pktA.seq) ∧ s.link.cfg.ackTimeout = waited s 201 s.link.tSend ∧
     waited s 200 s.link.tSend < s.link.cfg.ackTimeout) ∧
    (let s : State := { node fun l => { l with sendState := .waitingForAck, qOut := [pktA], tSend := 100 } with
       params := { Config.defaults with timeW := some 8 } }
     ready s = true ∧ s.env.handlerStall = none ∧ s.link.sendState = .waitingForAck ∧ s.link.qOut = pktA :: [] ∧
     s.link.qAck = [] ∧ s.link.cfg.ackTimeout = waited s 44 s.link.tSend ∧
     waited s 43 s.link.tSend < s.link.cfg.ackTimeout) := by decide +kernel
/-- V-T16 to V-T18. -/
theorem witness_AnswerOrTimeoutEndsTheRequest :
    (let s := sender .waitingForResponse pktReq []
     ready s = true ∧ s.env.handlerStall = none ∧ s.link.sendState = .waitingForResponse ∧ s.link.qOut = pktReq :: [] ∧
     s.link.responseReceived = false ∧ s.link.cfg.respTimeout = waited s 201 s.link.tSend ∧
     waited s 200 s.link.tSend < s.link.cfg.respTimeout) ∧
    (let s := node fun l => { l with sendState := .waitingForResponse, qOut := [pktReq], responseReceived := true }
     ready s = true ∧ s.env.handlerStall = none ∧ s.link.sendState = .waitingForResponse ∧ s.link.qOut = pktReq :: [] ∧
     s.link.responseReceived = true) := by decide +kernel
/-- A worker that stands still; a handler that does not return in phase 2, and a phase 2 that calls none. -/
theorem witness_StalledCallStopsTheWorker :
    (let s := node fun l => { l with stalled := true }
     s.linkOpen = true ∧ s.link.stalled = true) ∧
    (phase2 0 (node fun l => { l with qData := [pktD] })).trace ≠ [] ∧ (phase2 0 fresh).trace = [] := by decide +kernel

/-- The same statement, after the write: a write that does not return; `onRawBytesSent` and `onPacketSent` that do not. -/
theorem witness_StalledCallStopsTheWorker_sending :
    (let s : State := { sender .sending pktA [] with env := { Env.quiet with writeReturns := false } }
     s.link.qOut = pktA :: [] ∧ s.link.sendState = .sending ∧ encodePacket pktA = some wireA ∧ s.link.requestOpen = false ∧
     pktA.payload = [] ∧ s.env.writeReturns = false) ∧
    ∀ k ∈ [0, 1],
      let s := stuckHandler k (node fun l => { l with sendState := .sending, qOut := [pktA], requestOpen := true, tReq := 100 })
      s.link.qOut = pktA :: [] ∧ s.link.sendState = .sending ∧ encodePacket pktA = some wireA ∧ s.link.requestOpen = true ∧
      waited s 299 s.link.tReq + 1 = s.link.cfg.respTimeout ∧ pktA.payload = [] ∧ s.env.writeReturns = true ∧
      s.env.handlerStall = some k ∧ s.linkOpen = true ∧ ready s = true ∧ isMessage pktA.kind = true := by decide +kernel

/-- The same statement, in WaitingForAck: the second `onAckNackObserved`; `onPacketSent` and `onNackFail` after it; the ack timeout's
`onAckNackObserved`, and `onAckTimeout`; in WaitingForResponse: `onResponseTimeout`. -/
theorem witness_StalledCallStopsTheWorker_waiting :
    (∀ k ∈ [1, 2], ∀ a ∈ [ctl .positiveAck 0 0x41 0x42, ctl .negativeAck 0 0x41 0x42],
      let before := [ctl .positiveAck 9 0x41 0x42]
      let s := stuckHandler k (node fun l => { l with sendState := .waitingForAck, qOut := [pktA], qAck := before ++ [a], nackCnt := 3 })
      s.link.qOut = pktA :: [] ∧ s.link.sendState = .waitingForAck ∧ ready s = true ∧ s.link.qAck = before ++ a :: [] ∧
      (∀ x ∈ before, x.seq ≠ pktA.seq) ∧ (s.env.handlerStall = some before.length ∨ s.env.handlerStall = some (before.length + 1)) ∧
      a.seq = pktA.seq ∧ pktA.kind ≠ .request ∧ s.link.nackCnt + 1 > s.link.cfg.maxRetx) ∧
    (∀ k ∈ [1, 2],
      let s := stuckHandler k (node fun l =>
        { l with sendState := .waitingForAck, qOut := [pktA], qAck := [ctl .positiveAck 9 0x41 0x42], tSend := 1, ackToCnt := 3 })
      s.link.qOut = pktA :: [] ∧ s.link.sendState = .waitingForAck ∧ ready s = true ∧ (∀ x ∈ s.link.qAck, x.seq ≠ pktA.seq) ∧
      s.link.cfg.ackTimeout = waited s 201 s.link.tSend ∧ s.link.ackToCnt + 1 > s.link.cfg.maxRetx ∧
      (s.env.handlerStall = some s.link.qAck.length ∨ s.env.handlerStall = some (s.link.qAck.length + 1))) ∧
    (let s := stuckHandler 0 (sender .waitingForResponse pktReq [])
     s.link.qOut = pktReq :: [] ∧ s.link.sendState = .waitingForResponse ∧ s.env.handlerStall = some 0 ∧
     s.link.responseReceived = false ∧ s.link.cfg.respTimeout = waited s 201 s.link.tSend) := by decide +kernel
/-- A first transmission, the ack timeout that goes back to Sending, the second transmission. -/
theorem witness_RetryWritesTheSameBytes :
    (let s := sender .sending pktA []
     s.linkOpen = true ∧ s.link.sendState = .sending ∧ s.link.qOut = pktA :: [] ∧
     linkOf (fun l => (l.sendState, l.qOut)) (phase3 1 s) = some (.waitingForAck, [sentA])) ∧
    (let s := sender .waitingForAck sentA []
     s.link.sendState = .waitingForAck ∧ linkOf (fun l => (l.sendState, l.qOut)) (phase3 201 s) = some (.sending, [sentA])) ∧
    (let s := sender .sending sentA []
     s.linkOpen = true ∧ s.link.sendState = .sending ∧ s.link.qOut = sentA :: [] ∧ s.link.requestOpen = false ∧
     traceOf (phase3 202 s) = some [.write wireA, .event (.onRawBytesSent wireA)]) ∧
    isMessage pktA.kind = true ∧ pktA.msg = some ⟨1, 0⟩ ∧ unstuffed pktA = some unstuffedA := by decide +kernel
theorem witness_StepRunsTheDecodedInstruction :
    (let t : Transaction := { level := .operation, bytes := [0x05, 0x00], env := Env.quiet }
     { fresh with inputs := [t] }.inputs = t :: [] ∧ whole t.level t.bytes = some (.tick 0)) := by decide +kernel
theorem witness_UnknownOperationCodeIsRefused :
    (let t : Transaction := { level := .operation, bytes := [0x15], env := Env.quiet }
     { fresh with inputs := [t] }.inputs = t :: [] ∧ t.level = .operation ∧ t.bytes = 0x15 :: [] ∧
     (0x15 : Byte) ∉ ([0x01, 0x02, 0x03, 0x04, 0x05, 0x06, 0x10, 0x11, 0x12, 0x13, 0x14] : List Byte)) := by decide +kernel

/-- The invariant holds of a link that waits for an ack, with an ack and a partial frame in its buffers. -/
theorem witness_inv_waiting :
    Inv (node fun l => { l with sendState := .waitingForAck, qOut := [pktA], qAck := [ctl .positiveAck 0 0x41 0x42], tSend := 1
                                rxBuf := [0x01, 0x41], ackToCnt := 3 }) := by
  intro _
  constructor <;> decide +kernel

/-- The invariant holds of a link that is about to write. -/
theorem witness_inv_sending : Inv (sender .sending pktA []) := by
  intro _
  constructor <;> decide +kernel

/-- `s` with one TICK waiting in the input port. -/
def withTick (s : State) : State := { s with inputs := [{ level := .operation, bytes := [0x05, 0x01], env := Env.quiet }] }

theorem witness_StepKeepsTheLinkInvariant :
    Inv (withTick (sender .sending pktA [])) ∧ (nextOf (step (withTick (sender .sending pktA [])))).isSome = true :=
  ⟨fun _ => by constructor <;> decide +kernel, by decide +kernel⟩
theorem witness_ParametersNeverChange : (nextOf (step (withTick (sender .sending pktA [])))).isSome = true := by decide +kernel
theorem witness_OutputTraceOnlyGrows :
    (nextOf (step (withTick (sender .sending pktA [])))).map (·.trace) = some [.write wireA, .event (.onRawBytesSent wireA)] := by
  decide +kernel
/-- Also in an environment where nothing returns. -/
theorem witness_TickAlwaysCompletes :
    Inv (sender .sending pktA []) ∧ running (sender .sending pktA []) = true ∧ clockForward (sender .sending pktA []) 1 = true ∧
    Inv (stuckHandler 0 (sender .sending pktA [])) :=
  ⟨witness_inv_sending, by decide +kernel, by decide +kernel, witness_inv_sending⟩
theorem witness_GoodStatesNeverFault : Inv (withTick (sender .sending pktA [])) :=
  fun _ => by constructor <;> decide +kernel
theorem witness_WorkerLeavesOthersRegisters :
    undisturbed (sender .sending pktA []) = true ∧ (nextOf (exec (.tick 1) (sender .sending pktA []))).isSome = true := by
  decide +kernel
/-- The write happens, with a byte received during it. -/
theorem witness_OnlyTheHeadIsWritten :
    Inv (sender .sending pktA []) ∧
    (let s : State := { sender .sending pktA [] with env := { Env.quiet with gaps := { Gaps.none with duringWrite := [.rxByte 0x01] } } }
     Inv s ∧ (traceOf (exec (.tick 1) s)).map (·.drop s.trace.length) = some [.write wireA, .event (.onRawBytesSent wireA)]) :=
  ⟨witness_inv_sending, witness_inv_sending, by decide +kernel⟩
end Sys2Proof.Tests
end

namespace Sys2Proof.Machine
open Sys2Proof

/-! ### ENCODE of a message packet -/

theorem lowByte_lengthField {n : Nat} (h : n ≤ 65535) : lowByte (lengthField n) = BitVec.ofNat 8 n := by
  apply BitVec.eq_of_toNat_eq
  have hn : (lengthField n).toNat = n := toNat_lengthField h
  simp [lowByte, hn]

theorem highByte_lengthField {n : Nat} (h : n ≤ 65535) : highByte (lengthField n) = BitVec.ofNat 8 (n / 256) := by
  apply BitVec.eq_of_toNat_eq
  have hn : (lengthField n).toNat = n := toNat_lengthField h
  simp [highByte, hn, Nat.shiftRight_eq_div_pow]

/-- For a payload R42 allows, the length field is the two bytes of the length itself, low byte first (R192). -/
theorem messageBody_of_le (h : Header) (m : Message) {payload : List Byte} (hn : payload.length ≤ 65535) :
    messageBody h m payload =
      headerBytes h ++ [m.command, lowByte m.parameter, highByte m.parameter,
        BitVec.ofNat 8 payload.length, BitVec.ofNat 8 (payload.length / 256)] ++ payload := by
  rw [messageBody, lowByte_lengthField hn, highByte_lengthField hn]

/-- ENCODE of a packet of a message kind replies with its wire form and changes nothing else (R192, R194). -/
theorem exec_encode_of_isMessage {p : Packet} {m : Message} (hk : isMessage p.kind = true) (hm : p.msg = some m) (s : State) :
    exec (.encode p) s =
      .next (s.reply (.bytes (wireForm
        (messageBody p.toHeader m p.payload ++ crcBytes (messageCrc p.toHeader m p.payload))))) := by
  have hexec : exec (.encode p) s = execEncode p s := rfl
  simp [hexec, execEncode, encodePacket, unstuffed, hk, messageOf_of_some hm]

/-- Settles O8: the wire form ENCODE replies with, its body and its CRC written out. -/
theorem encodeWritesMessageFrames : Obligations.EncodeWritesMessageFrames := by
  unfold Obligations.EncodeWritesMessageFrames
  intro p m s hkind hmsg hlen
  rw [exec_encode_of_isMessage hkind hmsg, messageCrc, length_messageBody, messageBody_of_le _ _ hlen]
  rfl

end Sys2Proof.Machine

namespace Sys2Proof.Machine
open Sys2Proof

/-! ### CRC16 -/

/-- CRC16 of one byte more is one update more (R151). -/
theorem crc16_succ (buf : List Byte) {n : Nat} (h : n < buf.length) :
    crc16 buf (n + 1) = crcUpdate (crc16 buf n) buf[n] := by
  rw [crc16, List.take_succ_eq_append_getElem h, List.foldl_append, List.foldl_cons, List.foldl_nil, crc16]

/-- CRC16 inside its domain replies with the checksum and changes nothing else (R151, R155). -/
theorem exec_crc16_of_le {buf : List Byte} {n : Nat} (h : n ≤ buf.length) (s : State) :
    exec (.crc16 buf n) s = .next (s.reply (.word (crc16 buf n))) := by
  have hexec : exec (.crc16 buf n) s = execCrc16 buf n s := rfl
  rw [hexec, execCrc16, if_pos h]

/-- Settles O1: the start value, one table update for each byte, and the reply. -/
theorem crcUpdatesByTable : Obligations.CrcUpdatesByTable := by
  unfold Obligations.CrcUpdatesByTable
  intro buf s
  exact ⟨rfl, fun n h => crc16_succ buf h, fun n h => exec_crc16_of_le h s⟩

/-- The index of the update vanishes when the byte is the register's own low byte (R151). -/
theorem tableIndex_lowByte (c : Word16) : (c ^^^ (lowByte c).zeroExtend 16) &&& 0x00FF = 0 := by
  have hmask : ∀ i < 16, (0x00FF : Word16).getLsbD i = decide (i < 8) := by decide
  apply BitVec.eq_of_getLsbD_eq
  intro i hi
  rw [BitVec.getLsbD_and, hmask i hi]
  by_cases h8 : i < 8
  · simp [lowByte, hi, h8]
  · simp [h8]

/-- A byte equal to the register's low byte selects entry 0 of the table, which is 0: the update only shifts. -/
theorem crcUpdate_lowByte (c : Word16) : crcUpdate c (lowByte c) = c >>> 8 := by
  have hentry : crcTable.getD (0 : Word16).toNat 0 = 0 := rfl
  rw [crcUpdate, tableIndex_lowByte, hentry]
  exact BitVec.xor_zero

theorem lowByte_shiftRight_eight (c : Word16) : lowByte (c >>> 8) = highByte c := by
  apply BitVec.eq_of_getLsbD_eq
  intro i hi
  simp [lowByte, highByte]

/-- The register's own two bytes, low byte first, shift it out to 0, whatever it held (R154). -/
theorem foldl_crcUpdate_crcBytes (c : Word16) : (crcBytes c).foldl crcUpdate c = 0 :=
  calc crcUpdate (crcUpdate c (lowByte c)) (highByte c)
    _ = crcUpdate (c >>> 8) (lowByte (c >>> 8)) := by rw [crcUpdate_lowByte, lowByte_shiftRight_eight]
    _ = c >>> 8 >>> 8 := crcUpdate_lowByte _
    _ = c >>> 16 := (BitVec.shiftRight_add c 8 8).symm
    _ = 0 := BitVec.ushiftRight_eq_zero (Nat.le_refl 16)

/-- Any buffer followed by its own CRC field has CRC 0 (R154). -/
theorem crc16_append_crcBytes (m : List Byte) :
    crc16 (m ++ crcBytes (crc16 m m.length)) (m ++ crcBytes (crc16 m m.length)).length = 0 := by
  rw [crc16_length, List.foldl_append, ← crc16_length, foldl_crcUpdate_crcBytes]

/-- A message frame checks out because ENCODE ends it with the CRC of its body (R192, R154). -/
theorem crc16_unstuffed_of_isMessage {p : Packet} {u : List Byte} (hk : isMessage p.kind = true) (hu : unstuffed p = some u) :
    crc16 u u.length = 0 := by
  rcases unstuffed_cases hu with ⟨_, rfl⟩ | ⟨hnot, _, _⟩
  · exact crc16_append_crcBytes _
  · simp [hk] at hnot

/-- High byte first, the CRC of a single zero byte does not check out: it is `40BF`, and its two bytes differ. -/
theorem crc16_append_swapped_ne_zero :
    crc16 ([0x00] ++ [highByte (crc16 [0x00] 1), lowByte (crc16 [0x00] 1)]) 3 ≠ 0 := by
  decide

/-- Settles O2: the law, its form for frames, and a buffer on which the other byte order fails. -/
theorem crcSelfCheck : Obligations.CrcSelfCheck := by
  unfold Obligations.CrcSelfCheck
  refine ⟨fun m => ?_, fun p u hk hu => crc16_unstuffed_of_isMessage hk hu, [0x00], crc16_append_swapped_ne_zero⟩
  simpa [crcBytes] using crc16_append_crcBytes m

end Sys2Proof.Machine

namespace Sys2Proof.Machine
open Sys2Proof

/-! ### STUFF and UNSTUFF -/

theorem isReserved_iff (b : Byte) : isReserved b = true ↔ b ∈ reservedBytes := List.contains_iff_mem

/-- The escape's XOR recovers the byte it was made of (R174). -/
@[simp] theorem escapeXor_escapeXor (b : Byte) : escapeXor (escapeXor b) = b := by
  rw [escapeXor, escapeXor, BitVec.xor_assoc, BitVec.xor_self, BitVec.xor_zero]

@[simp] theorem stuff_nil : stuff [] = [] := rfl

/-- One reserved byte becomes an escape pair (R171). -/
theorem stuff_cons_of_isReserved {b : Byte} (h : isReserved b = true) (x : List Byte) :
    stuff (b :: x) = shiftByte :: escapeXor b :: stuff x := by
  simp [stuff, stuffByte, h]

/-- A byte that is not reserved is copied (R171). -/
theorem stuff_cons_of_not_isReserved {b : Byte} (h : ¬ isReserved b = true) (x : List Byte) :
    stuff (b :: x) = b :: stuff x := by
  simp [stuff, stuffByte, h]

@[simp] theorem unstuff_nil : unstuff [] = [] := rfl

/-- A shift marker at the very end gives nothing (R175). -/
theorem unstuff_dangling : unstuff [shiftByte] = [] := rfl

/-- A shift marker and the byte after it, whatever that is, are one byte (R174). -/
@[simp] theorem unstuff_shift_cons (v : Byte) (y : List Byte) :
    unstuff (shiftByte :: v :: y) = escapeXor v :: unstuff y := by
  rw [unstuff, if_pos rfl]

/-- Any byte but the shift marker is copied, the last one too (R174). -/
theorem unstuff_cons_of_ne_shift {b : Byte} (h : b ≠ shiftByte) (y : List Byte) :
    unstuff (b :: y) = b :: unstuff y := by
  cases y with
  | nil => rw [unstuff_nil, unstuff, if_neg h]
  | cons v y => rw [unstuff, if_neg h]

/-- The shift marker is reserved itself, so a byte STUFF copies does not look like an escape to UNSTUFF. -/
theorem ne_shift_of_not_isReserved {b : Byte} (h : ¬ isReserved b = true) : b ≠ shiftByte := by
  rintro rfl
  exact h (by decide)

/-- UNSTUFF undoes STUFF, a sequence that holds shift markers and other reserved bytes included (R176). -/
@[simp] theorem unstuff_stuff (x : List Byte) : unstuff (stuff x) = x := by
  induction x with
  | nil => rfl
  | cons b x ih =>
    by_cases h : isReserved b = true
    · rw [stuff_cons_of_isReserved h, unstuff_shift_cons, escapeXor_escapeXor, ih]
    · rw [stuff_cons_of_not_isReserved h, unstuff_cons_of_ne_shift (ne_shift_of_not_isReserved h), ih]

/-- STUFF undoes UNSTUFF on a sequence STUFF can make, and on no other (R176). -/
theorem stuff_unstuff_iff (y : List Byte) : stuff (unstuff y) = y ↔ ∃ x, y = stuff x := by
  constructor
  · intro h
    exact ⟨unstuff y, h.symm⟩
  · rintro ⟨x, rfl⟩
    rw [unstuff_stuff]

/-- Settles O6: the round trip, its converse, and a reserved byte outside the image of STUFF. -/
theorem unstuffUndoesStuff : Obligations.UnstuffUndoesStuff := by
  unfold Obligations.UnstuffUndoesStuff
  exact ⟨unstuff_stuff, stuff_unstuff_iff, by decide⟩

/-- STUFF replies with the stuffed bytes and changes nothing else (R171). -/
theorem exec_stuff (x : List Byte) (s : State) : exec (.stuff x) s = .next (s.reply (.bytes (stuff x))) := rfl

/-- UNSTUFF replies with the bytes recovered and changes nothing else (R174). -/
theorem exec_unstuff (y : List Byte) (s : State) : exec (.unstuff y) s = .next (s.reply (.bytes (unstuff y))) := rfl

/-- Settles O4: the reply, and STUFF of one byte more by whether that byte is reserved. -/
theorem stuffEscapesReservedBytes : Obligations.StuffEscapesReservedBytes := by
  unfold Obligations.StuffEscapesReservedBytes
  intro x s
  refine ⟨exec_stuff x s, stuff_nil, fun b y => ?_⟩
  split
  next hmem => exact stuff_cons_of_isReserved ((isReserved_iff b).2 hmem) y
  next hmem => exact stuff_cons_of_not_isReserved (fun h => hmem ((isReserved_iff b).1 h)) y

/-- Settles O5: the reply, and UNSTUFF's three arms with the dangling marker. -/
theorem unstuffConsumesEscapes : Obligations.UnstuffConsumesEscapes := by
  unfold Obligations.UnstuffConsumesEscapes
  intro x s
  exact ⟨exec_unstuff x s, unstuff_nil, unstuff_dangling, unstuff_shift_cons, fun b y hb => unstuff_cons_of_ne_shift hb y⟩

end Sys2Proof.Machine

namespace Sys2Proof.Machine
open Sys2Proof

/-! ### ENCODE of a control packet -/

/-- No kind is both a message kind and a control kind (R19). -/
theorem isMessage_of_isControl {k : Kind} (h : isControl k = true) : isMessage k = false := by
  revert h; cases k <;> decide

theorem unstuffed_of_isControl {p : Packet} (h : isControl p.kind = true) : unstuffed p = some (headerBytes p.toHeader) := by
  simp [unstuffed, isMessage_of_isControl h, h]

/-- ENCODE of a packet inside its domain replies with its wire form and changes nothing else (R190, R194). -/
theorem exec_encode_of_unstuffed {p : Packet} {u : List Byte} (h : unstuffed p = some u) (s : State) :
    exec (.encode p) s = .next (s.reply (.bytes (wireForm u))) := by
  have hexec : exec (.encode p) s = execEncode p s := rfl
  simp [hexec, execEncode, encodePacket, h]

/-- Settles O9: the unstuffed form of a control packet is its header, whatever its other fields hold. -/
theorem encodeWritesControlFrames : Obligations.EncodeWritesControlFrames := by
  unfold Obligations.EncodeWritesControlFrames
  intro p s hkind
  exact exec_encode_of_unstuffed (unstuffed_of_isControl hkind) s

end Sys2Proof.Machine

namespace Sys2Proof.Machine
open Sys2Proof Sys2Proof.Safety

/-! ### DECODE of what ENCODE writes -/

/-- DECODE replies with the packet and changes nothing else (R200). -/
theorem exec_decode (r : List Byte) (s : State) : exec (.decode r) s = .next (s.reply (.packet (decodeFrame r))) := rfl

/-- Taking the delimiters off and unstuffing recovers the unstuffed form (R117, R176). -/
theorem decodeFrame_wireForm (u : List Byte) : decodeFrame (wireForm u) = parsePacket u := by
  rw [decodeFrame, frameContent_wireForm, unstuff_stuff]

section FormatM

variable (h : Header) (m : Message)

theorem parseHeader_messageBody (payload r : List Byte) : parseHeader (messageBody h m payload ++ r) = h := by
  rw [messageBody, List.append_assoc, List.append_assoc, parseHeader_headerBytes]

theorem parseMessage_messageBody (payload r : List Byte) : parseMessage (messageBody h m payload ++ r) = m := by
  simp [parseMessage, byteAt, messageBody, headerBytes, word16_low_high]

/-- The length field says how long the payload is, as long as it can hold that (R192, R202). -/
theorem plenField_messageBody {payload : List Byte} (hlen : payload.length ≤ 65535) (r : List Byte) :
    plenField (messageBody h m payload ++ r) = payload.length := by
  simp [plenField, byteAt, messageBody, headerBytes, word16_low_high, toNat_lengthField hlen]

/-- The payload is what follows the ten bytes before it (R115). -/
theorem drop_ten_messageBody (payload r : List Byte) : (messageBody h m payload ++ r).drop 10 = payload ++ r := by
  simp [messageBody, headerBytes]

theorem length_messageBody_crcBytes (payload : List Byte) (k : Word16) :
    (messageBody h m payload ++ crcBytes k).length = payload.length + 12 := by
  simp only [List.length_append, length_messageBody, crcBytes, List.length_cons, List.length_nil]; omega

end FormatM

/-- The last two bytes of any sequence that ends with a CRC field are that CRC (R202). -/
theorem word16_last_crcBytes (body : List Byte) (k : Word16) :
    word16 (byteAt (body ++ crcBytes k) body.length) (byteAt (body ++ crcBytes k) (body.length + 1)) = k := by
  simp [byteAt, crcBytes, word16_low_high]

/-- DECODE of twelve bytes or more of a message kind (R202, R203). -/
theorem parsePacket_of_twelve_le {u : List Byte} (hk : isMessage (parseHeader u).kind = true) (hu : 12 ≤ u.length) :
    parsePacket u =
      { toHeader := parseHeader u, msg := some (parseMessage u), payload := (u.drop 10).take (u.length - 12)
        crc := some (word16 (byteAt u (u.length - 2)) (byteAt u (u.length - 1)))
        fail := crc16 u u.length != 0 || plenField u != u.length - 12 } := by
  simp only [parsePacket, if_pos hk, if_neg (Nat.not_lt.2 hu)]

/-- DECODE of a Format M form reads every field back; only the CRC is left to fail (R201 to R203). -/
theorem parsePacket_messageBody {h : Header} (hk : isMessage h.kind = true) (m : Message) {payload : List Byte}
    (hlen : payload.length ≤ 65535) (k : Word16) :
    parsePacket (messageBody h m payload ++ crcBytes k) =
      { toHeader := h, msg := some m, payload := payload, crc := some k
        fail := crc16 (messageBody h m payload ++ crcBytes k) (messageBody h m payload ++ crcBytes k).length != 0 } := by
  have hheader : parseHeader (messageBody h m payload ++ crcBytes k) = h := parseHeader_messageBody h m payload _
  have hu : (messageBody h m payload ++ crcBytes k).length = payload.length + 12 := length_messageBody_crcBytes h m payload k
  have hlow : payload.length + 12 - 2 = (messageBody h m payload).length := by rw [length_messageBody]; omega
  have hhigh : payload.length + 12 - 1 = (messageBody h m payload).length + 1 := by rw [length_messageBody]; omega
  rw [parsePacket_of_twelve_le (by rw [hheader]; exact hk) (by omega)]
  simp only [hheader, hu, parseMessage_messageBody, drop_ten_messageBody, plenField_messageBody h m hlen, hlow, hhigh,
    word16_last_crcBytes, Nat.add_sub_cancel, List.take_left, bne_self_eq_false, Bool.or_false]

/-- DECODE of a Format C form: the header, and nothing that could fail (R201, R205). -/
theorem parsePacket_headerBytes {h : Header} (hk : isMessage h.kind = false) :
    parsePacket (headerBytes h) = { toHeader := h, msg := none, payload := [], crc := none, fail := false } := by
  have hheader : parseHeader (headerBytes h) = h := by simpa using parseHeader_headerBytes h []
  have hlength : (headerBytes h).length = 5 := rfl
  simp [parsePacket, hheader, hk, hlength]

theorem unstuffed_of_isMessage {p : Packet} {m : Message} (hk : isMessage p.kind = true) (hm : p.msg = some m) :
    unstuffed p = some (messageBody p.toHeader m p.payload ++ crcBytes (messageCrc p.toHeader m p.payload)) := by
  simp [unstuffed, hk, messageOf_of_some hm]

/-- A valid packet has not failed; it is a message packet with its message, a payload the length field can hold and its own CRC, or
a control packet with none of these (R42, R207). -/
theorem validPacket_cases {p : Packet} (hp : validPacket p = true) :
    p.fail = false ∧
      ((∃ m, isMessage p.kind = true ∧ p.msg = some m ∧ p.payload.length ≤ 65535 ∧
        p.crc = some (messageCrc p.toHeader m p.payload)) ∨
      (isControl p.kind = true ∧ p.msg = none ∧ p.payload = [] ∧ p.crc = none)) := by
  by_cases hk : isMessage p.kind = true
  · cases hm : p.msg with
    | none => simp [validPacket, hk, hm] at hp
    | some m =>
      obtain ⟨hfail, hlen, hcrc⟩ :
          p.fail = false ∧ p.payload.length ≤ 65535 ∧ p.crc = some (messageCrc p.toHeader m p.payload) := by
        simpa [validPacket, hk, hm] using hp
      exact ⟨hfail, .inl ⟨m, hk, rfl, hlen, hcrc⟩⟩
  · obtain ⟨hfail, hctl, hmsg, hpayload, hcrc⟩ :
        p.fail = false ∧ isControl p.kind = true ∧ p.msg = none ∧ p.payload = [] ∧ p.crc = none := by
      simpa [validPacket, hk, and_assoc] using hp
    exact ⟨hfail, .inr ⟨hctl, hmsg, hpayload, hcrc⟩⟩

/-- Every valid packet is in ENCODE's domain, and the steps of DECODE after unstuffing undo the steps of ENCODE before stuffing
(R207). -/
theorem parsePacket_unstuffed {p : Packet} (hp : validPacket p = true) : ∃ u, unstuffed p = some u ∧ parsePacket u = p := by
  obtain ⟨hfail, ⟨m, hk, hmsg, hlen, hcrc⟩ | ⟨hctl, hmsg, hpayload, hcrc⟩⟩ := validPacket_cases hp
  · have hu := unstuffed_of_isMessage hk hmsg
    refine ⟨_, hu, ?_⟩
    rw [parsePacket_messageBody hk m hlen, crc16_unstuffed_of_isMessage hk hu, ← hcrc, ← hmsg]
    cases p; cases hfail; rfl
  · refine ⟨_, unstuffed_of_isControl hctl, ?_⟩
    rw [parsePacket_headerBytes (isMessage_of_isControl hctl), ← hmsg, ← hpayload, ← hcrc, ← hfail]

/-- Settles O12: stuffing and delimiters come off, and the unstuffed form is read back field for field. -/
theorem decodeInvertsEncode : Obligations.DecodeInvertsEncode := by
  unfold Obligations.DecodeInvertsEncode
  intro p s hp
  obtain ⟨u, hu, hparse⟩ := parsePacket_unstuffed hp
  refine ⟨wireForm u, exec_encode_of_unstuffed hu s, fun s' => ?_⟩
  rw [exec_decode, decodeFrame_wireForm, hparse]

end Sys2Proof.Machine

namespace Sys2Proof.Machine
open Sys2Proof

/-! ### Phase 1: decoding and classification -/

/-- A failed packet goes to `Q_DATA` whatever its kind (R210). -/
theorem queueOf_eq_qData_iff (p : Packet) : queueOf p = some .qData ↔ (p.fail || isMessage p.kind) = true := by
  by_cases hf : p.fail = true
  · simp [queueOf, hf]
  · simp [queueOf, queueOfKind, hf]

theorem queueOf_eq_qAck_iff (p : Packet) : queueOf p = some .qAck ↔ (!p.fail && isControl p.kind) = true := by
  by_cases hc : isControl p.kind = true
  · simp [queueOf, queueOfKind, isMessage_of_isControl hc, hc]
  · cases hm : isMessage p.kind <;> simp [queueOf, queueOfKind, hm, hc]

/-- The packets of `ps` that classification puts in the queue `t`, in their order (R210). -/
def sortedInto (t : InQueue) (ps : List Packet) : List Packet := ps.filter fun p => queueOf p = some t

theorem sortedInto_qData (ps : List Packet) : sortedInto .qData ps = ps.filter fun p => p.fail || isMessage p.kind :=
  List.filter_congr fun p _ => Bool.eq_iff_iff.2 (decide_eq_true_iff.trans (queueOf_eq_qData_iff p))

theorem sortedInto_qAck (ps : List Packet) : sortedInto .qAck ps = ps.filter fun p => !p.fail && isControl p.kind :=
  List.filter_congr fun p _ => Bool.eq_iff_iff.2 (decide_eq_true_iff.trans (queueOf_eq_qAck_iff p))

/-- Packets classified one after the other: each queue gets its own in order, each lost if its queue is then full, and nothing
else changes (R84, R210). -/
theorem foldl_classify (d : Option Nat) (ps : List Packet) (l : Link) :
    ps.foldl (fun l p => classify d p l) l =
      { l with
        qData := (sortedInto .qData ps).foldl (enq d) l.qData
        qAck := (sortedInto .qAck ps).foldl (enq d) l.qAck } := by
  induction ps generalizing l with
  | nil => rfl
  | cons p ps ih =>
    rw [List.foldl_cons, ih]
    cases hq : queueOf p with
    | none => simp [classify, sortedInto, hq]
    | some t => cases t <;> simp [classify, sortedInto, hq]

/-- Phase 1 empties `Q_RAW` and classifies what its frames decode to, oldest first (R255). -/
theorem phase1_eq_foldl_classify (s : State) :
    phase1 s = s.mapLink fun l =>
      (l.qRaw.map decodeFrame).foldl (fun l p => classify s.params.qDepth p l) { l with qRaw := [] } := by
  simp only [phase1, State.mapLink, drainRaw, List.foldl_map]

/-- Settles O36: one fold over the decoded packets is two folds, one for each queue. -/
theorem rawFramesAreClassifiedInOrder : Obligations.RawFramesAreClassifiedInOrder := by
  unfold Obligations.RawFramesAreClassifiedInOrder
  intro s ps append
  have happend : append = enq s.params.qDepth := by
    funext q p
    exact (enq_eq s.params.qDepth q p).symm
  rw [happend, ← sortedInto_qData, ← sortedInto_qAck, phase1_eq_foldl_classify, State.mapLink, foldl_classify]

end Sys2Proof.Machine

namespace Sys2Proof.Machine
open Sys2Proof

/-! ### The reassembler: one received byte -/

/-- RX_BYTE on an open link is the reassembler's step; it refuses nothing and writes no register but the link's (R231). -/
theorem exec_rxByte_of_open {s : State} (b : Byte) (h : s.linkOpen = true) :
    exec (.rxByte b) s = .next (s.mapLink (reassemble s.params.qDepth b)) := by
  have hexec : exec (.rxByte b) s = .next (receiveByte b s) := rfl
  rw [hexec, receiveByte_of_open b h]

theorem overBound_iff (l : Link) : overBound l = true ↔ l.rxBuf.length + 1 > l.cfg.maxFrame.toNat := decide_eq_true_iff

/-- The byte extends the active frame: there is one, and the bound leaves room (R231, R233). -/
theorem extendsFrame_iff (l : Link) :
    (0 < l.rxBuf.length ∧ ¬ l.rxBuf.length + 1 > l.cfg.maxFrame.toNat) ↔ l.rxBuf ≠ [] ∧ overBound l = false := by
  rw [List.length_pos_iff, ← overBound_iff, Bool.not_eq_true]

theorem scanStart_eq_ite (b : Byte) (l : Link) :
    scanStart b l = if b = 0x01 then { l with rxBuf := [0x01] } else { l with rxBuf := [] } := by
  rw [scanStart, sohByte]
  split <;> rfl

/-- The reassembler's step as R231 orders its tests, the full queue's loss (R84) written out. -/
theorem reassemble_eq_ite (d : Option Nat) (b : Byte) (l : Link) :
    reassemble d b l =
      if 0 < l.rxBuf.length ∧ ¬ l.rxBuf.length + 1 > l.cfg.maxFrame.toNat then
        if b = 0x04 then { l with
          rxBuf := []
          qRaw := if d = some l.qRaw.length then l.qRaw else l.qRaw ++ [l.rxBuf ++ [0x04]] }
        else { l with rxBuf := l.rxBuf ++ [b] }
      else if b = 0x01 then { l with rxBuf := [0x01] }
      else { l with rxBuf := [] } := by
  obtain ⟨hscan, hstep⟩ | ⟨hactive, hroom, (hend : b = 0x04), hstep⟩ | ⟨hactive, hroom, (hcontent : b ≠ 0x04), hstep⟩ :=
    reassemble_cases d b l
  · have hnot : ¬ (l.rxBuf ≠ [] ∧ overBound l = false) := fun ⟨hactive, hroom⟩ =>
      hscan.elim hactive (by simp [hroom])
    rw [if_neg (mt (extendsFrame_iff l).1 hnot), hstep, scanStart_eq_ite]
  · rw [if_pos ((extendsFrame_iff l).2 ⟨hactive, hroom⟩), if_pos hend, hstep, enq_eq, eotByte]
  · rw [if_pos ((extendsFrame_iff l).2 ⟨hactive, hroom⟩), if_neg hcontent, hstep]

/-- Settles O19: RX_BYTE on an open link is the reassembler's step, and nothing outside the link changes. -/
theorem receiveByteReassembles : Obligations.ReceiveByteReassembles := by
  unfold Obligations.ReceiveByteReassembles
  intro b s hopen
  rw [exec_rxByte_of_open b hopen, State.mapLink, reassemble_eq_ite]

end Sys2Proof.Machine

namespace Sys2Proof.Machine
open Sys2Proof

/-! ### TICK on a closed or stopping link -/

theorem exec_tick (now : Nat) (s : State) : exec (.tick now) s = execTick now s := rfl

/-- Settles O35: the stop flag is tested before the clock and before any phase. -/
theorem stoppedTickIsEmpty : Obligations.StoppedTickIsEmpty := by
  unfold Obligations.StoppedTickIsEmpty
  intro now s
  refine ⟨fun hopen hstop => ?_, fun hclosed => ?_⟩
  · simp [exec_tick, execTick, hopen, hstop]
  · simp [exec_tick, execTick, hclosed]

/-! ### Phase 2: the packet taken, and its path -/

theorem phase2_of_nil (now : Nat) {s : State} (hq : s.link.qData = []) : phase2 now s = s := by
  rw [phase2, hq]

/-- The state once a packet has been taken from `Q_DATA` and `rest` is left (R259). -/
def takeData (rest : List Packet) (s : State) : State := s.mapLink fun l => { l with qData := rest }

/-- Phase 2 takes one packet from `Q_DATA` and handles it (R259). -/
theorem phase2_of_cons (now : Nat) {s : State} {p : Packet} {rest : List Packet} (hq : s.link.qData = p :: rest) :
    phase2 now s = handleIncoming now p (takeData rest s) := by
  rw [phase2, hq, takeData]

theorem handleIncoming_of_other (now : Nat) {p : Packet} {s : State} (hdst : p.dst ≠ s.link.cfg.localAddr) :
    handleIncoming now p s = s := if_neg hdst

theorem handleIncoming_of_answer (now : Nat) {p : Packet} {s : State} (hdst : p.dst = s.link.cfg.localAddr)
    (hpath : takesResponsePath s.link p = true) : handleIncoming now p s = responsePath p s := by
  rw [handleIncoming, if_pos hdst, if_pos hpath]

theorem handleIncoming_of_independent (now : Nat) {p : Packet} {s : State} (hdst : p.dst = s.link.cfg.localAddr)
    (hpath : ¬ takesResponsePath s.link p = true) : handleIncoming now p s = independentPath now p s := by
  rw [handleIncoming, if_pos hdst, if_neg hpath]

/-- Settles O37: the address test comes before either path. -/
theorem incomingForOthersIsDiscarded : Obligations.IncomingForOthersIsDiscarded := by
  unfold Obligations.IncomingForOthersIsDiscarded
  intro now s
  refine ⟨phase2_of_nil now, fun p rest hq hdst => ?_⟩
  rw [phase2_of_cons now hq, handleIncoming_of_other (s := takeData rest s) now hdst, takeData, State.mapLink]

/-- The response path is for the Data packet that answers the Request in flight, and for no other (R261, R266). -/
theorem takesResponsePath_iff (l : Link) (p : Packet) :
    takesResponsePath l p = true ↔
      l.sendState ≠ .idle ∧ ∃ h q, l.qOut = h :: q ∧ h.kind = .request ∧ p.fail = false ∧ p.kind = .data ∧ p.seq = h.seq := by
  cases hq : l.qOut with
  | nil => simp [takesResponsePath, hq]
  | cons h q => simp [takesResponsePath, inflight, correlates, hq, and_assoc]

/-- A reset reply is a Data packet with the reset command and a mask bit in its first payload byte (R268). -/
theorem isResetReply_iff (prm : Params) (x : Packet) :
    isResetReply prm x = true ↔
      x.kind = .data ∧ ∃ m b r, x.msg = some m ∧ x.payload = b :: r ∧ m.command = prm.resetCmd ∧ b &&& prm.resetMask ≠ 0 := by
  cases hm : x.msg with
  | none => simp [isResetReply, hm]
  | some m =>
    cases hp : x.payload with
    | nil => simp [isResetReply, hm, hp]
    | cons b r => simp [isResetReply, hm, hp, and_assoc]

/-- For a Data packet, reset detection turns on the message and the first payload byte alone (R268). -/
theorem isResetReply_iff_of_data (prm : Params) {x : Packet} (hk : x.kind = .data) :
    isResetReply prm x = true ↔
      ∃ m b r, x.msg = some m ∧ x.payload = b :: r ∧ m.command = prm.resetCmd ∧ b &&& prm.resetMask ≠ 0 :=
  (isResetReply_iff prm x).trans (and_iff_right hk)

/-- Where handlers return, the response path is reset detection, the flag and the delivery (R265). -/
theorem responsePath_of_returns (p : Packet) {s : State} (hret : s.env.handlerStall = none) :
    responsePath p s =
      { s with
        link := { detectReset s.params p s.link with responseReceived := true }
        trace := s.trace ++ [.event (.onPacketReceived p)] } := by
  exact State.fire_of_returns (s := s.mapLink fun l => { detectReset s.params p l with responseReceived := true }) _ hret

/-- Settles O40: the packet correlates, so it takes the response path, with and without reset detection. -/
theorem answerSetsTheResponseFlag : Obligations.AnswerSetsTheResponseFlag := by
  unfold Obligations.AnswerSetsTheResponseFlag
  intro now s p h rest q hret hq hdst hsend hout hreq hfail hkind hseq restarted
  have hpath : takesResponsePath (takeData rest s).link p = true :=
    (takesResponsePath_iff _ p).2 ⟨hsend, h, q, hout, hreq, hfail, hkind, hseq⟩
  have hreset : isResetReply s.params p = true ↔ restarted := isResetReply_iff_of_data s.params hkind
  rw [phase2_of_cons now hq, handleIncoming_of_answer (s := takeData rest s) now hdst hpath,
    responsePath_of_returns (s := takeData rest s) p hret, takeData, State.mapLink, detectReset]
  refine ⟨fun hre => ?_, fun hre => ?_⟩
  · rw [if_pos (hreset.2 hre), resetTrackers]
  · rw [if_neg (mt hreset.1 hre)]

/-- Delivery records the number, and of a Request that its answer is owed from `now` on (R264). -/
theorem recordDelivery_eq (now : Nat) (p : Packet) (l : Link) :
    recordDelivery now p l =
      { l with
        lastAckSeq := some p.seq
        requestOpen := if p.kind = .request then true else l.requestOpen
        tReq := if p.kind = .request then now else l.tReq } := by
  by_cases hreq : p.kind = .request
  · rw [recordDelivery, if_pos hreq, if_pos hreq, if_pos hreq]
  · rw [recordDelivery, if_neg hreq, if_neg hreq, if_neg hreq]

/-- The acknowledgement of R263, lost when `Q_OUT` is full (R84). -/
theorem queueAck_eq (prm : Params) (p : Packet) (l : Link) :
    queueAck prm p l =
      { l with qOut :=
          if prm.qDepth = some l.qOut.length then l.qOut else l.qOut ++ [ackFor prm l.cfg.localAddr p] } := by
  rw [queueAck, enq_eq]

section IndependentPath

variable (now : Nat) {p : Packet} {s : State}

/-- A failed packet and a duplicate are acknowledged, and no more (R262, R264). -/
theorem independentPath_of_suppressed (h : p.fail = true ∨ s.link.lastAckSeq = some p.seq) :
    independentPath now p s = s.mapLink (queueAck s.params p) := by
  by_cases hfail : p.fail = true
  · rw [independentPath, if_pos hfail]
  · have hdup : isDuplicate (s.mapLink (queueAck s.params p)).link p = true := decide_eq_true (h.resolve_left hfail)
    rw [independentPath, if_neg hfail, deliver, if_pos hdup]

/-- Where handlers return, any other packet is acknowledged, recorded and delivered (R264). -/
theorem independentPath_of_delivered (hret : s.env.handlerStall = none)
    (h : ¬ (p.fail = true ∨ s.link.lastAckSeq = some p.seq)) :
    independentPath now p s =
      { s with
        link := recordDelivery now p (queueAck s.params p s.link)
        trace := s.trace ++ [.event (.onPacketReceived p)] } := by
  obtain ⟨hfail, hnew⟩ := not_or.1 h
  have hdup : ¬ isDuplicate (s.mapLink (queueAck s.params p)).link p = true := fun hd => hnew (of_decide_eq_true hd)
  rw [independentPath, if_neg hfail, deliver, if_neg hdup]
  exact State.fire_of_returns (s := (s.mapLink (queueAck s.params p)).mapLink (recordDelivery now p)) _ hret

end IndependentPath

/-- Settles O38: what does not answer a Request in flight takes the independent path, which suppresses or delivers. -/
theorem incomingIsAcknowledgedAndDelivered : Obligations.IncomingIsAcknowledgedAndDelivered := by
  unfold Obligations.IncomingIsAcknowledgedAndDelivered
  intro now s p rest hret hq hdst hanswer a acked
  have hpath : ¬ takesResponsePath (takeData rest s).link p = true := mt (takesResponsePath_iff _ p).1 hanswer
  have hacked : queueAck s.params p (takeData rest s).link = acked := queueAck_eq s.params p _
  rw [phase2_of_cons now hq, handleIncoming_of_independent (s := takeData rest s) now hdst hpath]
  by_cases hsuppressed : p.fail = true ∨ s.link.lastAckSeq = some p.seq
  · rw [if_pos hsuppressed, independentPath_of_suppressed (s := takeData rest s) now hsuppressed, ← hacked]
    rfl
  · rw [if_neg hsuppressed, independentPath_of_delivered (s := takeData rest s) now hret hsuppressed, recordDelivery_eq,
      ← hacked]
    rfl

/-! ### Phase 3: the action of each state -/

section Phase3

variable (now : Nat) {s : State} {h : Packet} {q : List Packet}

theorem phase3_of_idle (hs : s.link.sendState = .idle) : phase3 now s = .next (idleAction s) := by
  rw [phase3, hs]

theorem phase3_of_sending (hs : s.link.sendState = .sending) (hq : s.link.qOut = h :: q) :
    phase3 now s = sendingAction now h s := by
  simp only [phase3, hs, withHead, hq]

theorem phase3_of_waitingForAck (hs : s.link.sendState = .waitingForAck) (hq : s.link.qOut = h :: q) :
    phase3 now s = waitAckAction now h s := by
  simp only [phase3, hs, withHead, hq]

theorem phase3_of_waitingForResponse (hs : s.link.sendState = .waitingForResponse) (hq : s.link.qOut = h :: q) :
    phase3 now s = .next (waitResponseAction now h s) := by
  simp only [phase3, hs, withHead, hq]

end Phase3

/-- Settles O41: Idle only changes the state, and only beside a packet. -/
theorem idleStartsSending : Obligations.IdleStartsSending := by
  unfold Obligations.IdleStartsSending
  intro now s hidle
  rw [phase3_of_idle now hidle, idleAction]
  by_cases hout : s.link.qOut = []
  · rw [if_pos (List.isEmpty_iff.2 hout), if_pos hout, ← hidle]
  · rw [if_neg (mt List.isEmpty_iff.1 hout), if_neg hout, State.mapLink, goto]

/-- Settles O42: the stale test comes before encoding, and a stale head is popped with no event. -/
theorem staleAnswerIsDropped : Obligations.StaleAnswerIsDropped := by
  unfold Obligations.StaleAnswerIsDropped
  intro now s h q hsend hout hopen waited hwaited
  have hstale : isStale now s = true := by
    rw [isStale, hopen, elapsed_eq, Bool.true_and]
    exact decide_eq_true hwaited
  rw [phase3_of_sending now hsend hout, sendingAction, if_pos hstale]
  simp only [dropHead, State.mapLink, popHead, goto, hout, List.tail_cons]

/-- Where handlers return, the end of a packet pops it, reports it and goes to Idle (R375, R290). -/
theorem terminate_of_returns (e : Event) {s : State} (hret : s.env.handlerStall = none) (hready : s.link.stalled = false) :
    terminate e s = { s with link := goto .idle (popHead s.link), trace := s.trace ++ [.event e] } := by
  rw [terminate, State.fire_of_returns (s := s.mapLink popHead) e hret]
  exact unlessStalled_of_ready hready

theorem stalled_of_ready {s : State} (h : Safety.ready s = true) : s.link.stalled = false := by
  simpa [Safety.ready] using h

/-- Settles O47: the flag is tested first, then the time since the last send. -/
theorem answerOrTimeoutEndsTheRequest : Obligations.AnswerOrTimeoutEndsTheRequest := by
  unfold Obligations.AnswerOrTimeoutEndsTheRequest
  intro now s h q hready hret hsend hout waited ended
  have helapsed : elapsed s.params now s.link.tSend s.link.cfg.respTimeout = true ↔ s.link.cfg.respTimeout ≤ waited := by
    rw [elapsed_eq]
    exact decide_eq_true_iff
  rw [phase3_of_waitingForResponse now hsend hout, waitResponseAction]
  by_cases hflag : s.link.responseReceived = true
  · rw [if_pos hflag, if_pos hflag]
    simp only [dropHead, State.mapLink, popHead, goto, hout, List.tail_cons, ended]
  · rw [if_neg hflag, if_neg hflag]
    by_cases hlate : s.link.cfg.respTimeout ≤ waited
    · rw [if_pos (helapsed.2 hlate), if_pos hlate, terminate_of_returns _ hret (stalled_of_ready hready)]
      simp only [popHead, goto, hout, List.tail_cons, ended]
    · rw [if_neg (mt helapsed.1 hlate), if_neg hlate]

/-! ### WaitingForAck -/

/-- The state once the entries `taken` have been observed and `rest` is left in `Q_ACK` (R280). -/
def observeAcks (taken rest : List Packet) (s : State) : State :=
  { s with
    trace := s.trace ++ taken.map fun x => .event (.onAckNackObserved false (some x)), link := { s.link with qAck := rest } }

/-- Where handlers return, a matching ack is acted on once the entries up to it have been observed (R280). -/
theorem waitAckAction_of_found (now : Nat) {s : State} {h a : Packet} {before after : List Packet}
    (hready : s.link.stalled = false) (hret : s.env.handlerStall = none) (hq : s.link.qAck = before ++ a :: after)
    (hskip : ∀ x ∈ before, x.seq ≠ h.seq) (hmatch : a.seq = h.seq) :
    waitAckAction now h s = afterScan now h (some a) (observeAcks (before ++ [a]) after s) := by
  rw [waitAckAction, hq, scanAcks_found before after s hret hready hskip hmatch, handleAcks]
  exact if_neg (by simp [hready])

/-- Where handlers return and no entry matches, all are observed before the timeout test (R280, R283). -/
theorem waitAckAction_of_none (now : Nat) {s : State} {h : Packet} (hready : s.link.stalled = false)
    (hret : s.env.handlerStall = none) (hskip : ∀ x ∈ s.link.qAck, x.seq ≠ h.seq) :
    waitAckAction now h s = afterScan now h none (observeAcks s.link.qAck [] s) := by
  rw [waitAckAction, scanAcks_none s.link.qAck s rfl hret hready hskip, handleAcks]
  exact if_neg (by simp [hready])

section AfterScan

variable (now : Nat) (h : Packet) {a : Packet} {s : State}

theorem afterScan_of_positiveAck (ha : a.kind = .positiveAck) : afterScan now h (some a) s = .next (onPositiveAck h s) :=
  if_pos ha

theorem afterScan_of_negativeAck (ha : a.kind = .negativeAck) : afterScan now h (some a) s = .next (onNegativeAck h s) := by
  have hnot : a.kind ≠ .positiveAck := by simp [ha]
  exact (if_neg hnot).trans (if_pos ha)

theorem afterScan_of_elapsed (he : elapsed s.params now s.link.tSend s.link.cfg.ackTimeout = true) :
    afterScan now h none s = .next (onAckTimeout h s) := if_pos he

theorem afterScan_of_not_elapsed (he : ¬ elapsed s.params now s.link.tSend s.link.cfg.ackTimeout = true) :
    afterScan now h none s = .next s := if_neg he

end AfterScan

theorem exceedsMax_iff (l : Link) (count : BitVec 8) : exceedsMax l count = true ↔ count > l.cfg.maxRetx := decide_eq_true_iff

section Counting

variable (h : Packet) {s : State}

theorem onNegativeAck_of_exceeds (hmax : s.link.nackCnt + 1 > s.link.cfg.maxRetx) :
    onNegativeAck h s = terminate (.onNackFail h) (s.mapLink countNack) := if_pos ((exceedsMax_iff _ _).2 hmax)

theorem onNegativeAck_of_le (hmax : ¬ s.link.nackCnt + 1 > s.link.cfg.maxRetx) :
    onNegativeAck h s = s.mapLink fun l => goto .sending (countNack l) := if_neg (mt (exceedsMax_iff _ _).1 hmax)

theorem retryOrGiveUp_of_exceeds (hmax : s.link.ackToCnt + 1 > s.link.cfg.maxRetx) :
    retryOrGiveUp h s = terminate (.onAckTimeout h) (s.mapLink countTimeout) := if_pos ((exceedsMax_iff _ _).2 hmax)

theorem retryOrGiveUp_of_le (hmax : ¬ s.link.ackToCnt + 1 > s.link.cfg.maxRetx) :
    retryOrGiveUp h s = s.mapLink fun l => goto .sending (countTimeout l) := if_neg (mt (exceedsMax_iff _ _).1 hmax)

/-- Where handlers return, an ack timeout is observed, then counted (R283). -/
theorem onAckTimeout_of_returns (hret : s.env.handlerStall = none) (hready : s.link.stalled = false) :
    onAckTimeout h s = retryOrGiveUp h (s.emit (.event (.onAckNackObserved true none))) := by
  rw [onAckTimeout, State.fire_of_returns _ hret]
  exact unlessStalled_of_ready hready

end Counting

/-- Settles O44: the scan stops at the match, and the kind of the head decides what a PositiveAck means. -/
theorem positiveAckCompletesOrAwaitsAnswer : Obligations.PositiveAckCompletesOrAwaitsAnswer := by
  unfold Obligations.PositiveAckCompletesOrAwaitsAnswer
  intro now s h a q before after hready hret hsend hout hq hskip hmatch hkind seen l
  have hgo : s.link.stalled = false := stalled_of_ready hready
  let scanned : State := observeAcks (before ++ [a]) after s
  rw [phase3_of_waitingForAck now hsend hout, waitAckAction_of_found now hgo hret hq hskip hmatch,
    afterScan_of_positiveAck now h hkind, onPositiveAck]
  by_cases hreq : h.kind = .request
  · rw [if_pos hreq, if_pos hreq, State.mapLink, observeAcks]
  · rw [if_neg hreq, if_neg hreq, terminate_of_returns (s := scanned) _ hret hgo]
    simp only [scanned, observeAcks, popHead, goto, hout, List.tail_cons, l, seen]

/-- Settles O45: the count after the NegativeAck is compared with `MAX_RETX`. -/
theorem negativeAckRetriesOrFails : Obligations.NegativeAckRetriesOrFails := by
  unfold Obligations.NegativeAckRetriesOrFails
  intro now s h a q before after hready hret hsend hout hq hskip hmatch hkind seen l
  have hgo : s.link.stalled = false := stalled_of_ready hready
  let scanned : State := observeAcks (before ++ [a]) after s
  rw [phase3_of_waitingForAck now hsend hout, waitAckAction_of_found now hgo hret hq hskip hmatch,
    afterScan_of_negativeAck now h hkind]
  by_cases hmax : s.link.nackCnt + 1 > s.link.cfg.maxRetx
  · rw [if_pos hmax, onNegativeAck_of_exceeds (s := scanned) h hmax,
      terminate_of_returns (s := scanned.mapLink countNack) _ hret hgo]
    simp only [scanned, observeAcks, State.mapLink, countNack, popHead, goto, hout, List.tail_cons, l, seen]
  · rw [if_neg hmax, onNegativeAck_of_le (s := scanned) h hmax]
    simp only [scanned, observeAcks, State.mapLink, countNack, goto, l, seen]

/-- Settles O46: nothing matches, so the time since the send decides, and then the count. -/
theorem ackTimeoutRetriesOrFails : Obligations.AckTimeoutRetriesOrFails := by
  unfold Obligations.AckTimeoutRetriesOrFails
  intro now s h q hready hret hsend hout hskip waited seen timedOut l
  have hgo : s.link.stalled = false := stalled_of_ready hready
  have helapsed : elapsed s.params now s.link.tSend s.link.cfg.ackTimeout = true ↔ s.link.cfg.ackTimeout ≤ waited := by
    rw [elapsed_eq]
    exact decide_eq_true_iff
  let scanned : State := observeAcks s.link.qAck [] s
  let observed : State := scanned.emit (.event (.onAckNackObserved true none))
  rw [phase3_of_waitingForAck now hsend hout, waitAckAction_of_none now hgo hret hskip]
  by_cases hlate : s.link.cfg.ackTimeout ≤ waited
  · rw [if_pos hlate, afterScan_of_elapsed (s := scanned) now h (helapsed.2 hlate),
      onAckTimeout_of_returns (s := scanned) h hret hgo]
    by_cases hmax : s.link.ackToCnt + 1 > s.link.cfg.maxRetx
    · rw [if_pos hmax, retryOrGiveUp_of_exceeds (s := observed) h hmax,
        terminate_of_returns (s := observed.mapLink countTimeout) _ hret hgo]
      simp only [observed, scanned, observeAcks, State.emit, State.mapLink, countTimeout, popHead, goto, hout, List.tail_cons,
        l, seen, timedOut]
    · rw [if_neg hmax, retryOrGiveUp_of_le (s := observed) h hmax]
      simp only [observed, scanned, observeAcks, State.emit, State.mapLink, countTimeout, goto, l, seen, timedOut]
  · rw [if_neg hlate]
    exact afterScan_of_not_elapsed (s := scanned) now h (mt helapsed.1 hlate)

end Sys2Proof.Machine

namespace Sys2Proof.Machine
open Sys2Proof Sys2Proof.Safety

/-! ### What phase 3 leaves to the delivery of incoming packets -/

/-- The event that delivers an incoming packet (R264, R265). -/
def isDelivery : Output → Bool
  | .event (.onPacketReceived _) => true
  | _ => false

def deliveries (out : List Output) : List Output := out.filter isDelivery

@[simp] theorem deliveries_nil : deliveries [] = [] := rfl

@[simp] theorem deliveries_append (a b : List Output) : deliveries (a ++ b) = deliveries a ++ deliveries b :=
  List.filter_append a b

/-- The registers that decide, over several TICKs, what is delivered. -/
structure DeliveryRegs where
  stop : Bool
  cfg : LinkConfig
  pending : List (CfgReg × Nat)
  qData : List Packet
  lastAckSeq : Option Byte

def Link.deliveryRegs (l : Link) : DeliveryRegs :=
  { stop := l.stop, cfg := l.cfg, pending := l.pending, qData := l.qData, lastAckSeq := l.lastAckSeq }

/-- From `s` to `t` nothing is delivered, and the registers that decide it stay. -/
structure Silent (s t : State) : Prop where
  regs : t.link.deliveryRegs = s.link.deliveryRegs
  trace : ∃ out, t.trace = s.trace ++ out ∧ deliveries out = []

theorem Silent.refl (s : State) : Silent s s := ⟨rfl, [], by simp, rfl⟩

theorem Silent.trans {s t u : State} (h : Silent s t) (k : Silent t u) : Silent s u := by
  obtain ⟨out, ht, hout⟩ := h.trace
  obtain ⟨out', hu, hout'⟩ := k.trace
  exact ⟨k.regs.trans h.regs, out ++ out', by rw [hu, ht, List.append_assoc], by rw [deliveries_append, hout, hout']; rfl⟩

theorem silent_mapLink (s : State) {f : Link → Link} (h : (f s.link).deliveryRegs = s.link.deliveryRegs) :
    Silent s (s.mapLink f) := ⟨h, [], by simp, rfl⟩

theorem silent_fire (s : State) {e : Event} (h : deliveries [.event e] = []) : Silent s (s.fire e) :=
  ⟨rfl, [.event e], rfl, h⟩

theorem unlessStalled_silent {f : State → State} {s : State} (h : Silent s (f s)) : Silent s (unlessStalled f s) := by
  rcases unlessStalled_cases f s with ⟨-, e⟩ | ⟨-, e⟩ <;> rw [e]
  · exact .refl s
  · exact h

theorem dropHead_silent (s : State) : Silent s (dropHead s) := silent_mapLink s rfl

theorem terminate_silent {e : Event} (h : deliveries [.event e] = []) (s : State) : Silent s (terminate e s) :=
  ((silent_mapLink s rfl).trans (silent_fire _ h)).trans (unlessStalled_silent (silent_mapLink _ rfl))

theorem idleAction_silent (s : State) : Silent s (idleAction s) := by
  unfold idleAction
  split
  · exact .refl s
  · exact silent_mapLink s rfl

/-! #### Sending -/

theorem stampHead_deliveryRegs (l : Link) : (stampHead l).deliveryRegs = l.deliveryRegs := by
  unfold stampHead
  split <;> rfl

theorem writeHead_silent (w : List Byte) (s : State) : Silent s (writeHead w s) :=
  ⟨stampHead_deliveryRegs s.link, [.write w], rfl, rfl⟩

theorem dispose_silent (now : Nat) (h : Packet) (s : State) : Silent s (dispose now h s) := by
  unfold dispose
  split
  · exact dropHead_silent s
  · split
    · exact ((silent_mapLink s rfl).trans (silent_fire _ rfl)).trans (unlessStalled_silent (silent_mapLink _ rfl))
    · exact silent_mapLink s rfl

/-- With no step of another agent during the write, a transmission is silent (R275 to R277). -/
theorem transmit_silent (now : Nat) (h : Packet) (w : List Byte) {s : State} (hgap : s.env.gaps.duringWrite = []) :
    Silent s (transmit now h w s) := by
  unfold transmit
  rw [hgap]
  split
  · exact ((writeHead_silent w s).trans (silent_fire _ rfl)).trans (unlessStalled_silent (dispose_silent now h _))
  · exact (writeHead_silent w s).trans (silent_mapLink _ rfl)

/-- Reset detection clears the tracker on a reset reply and does nothing on any other packet (R268). -/
theorem detectReset_cases (p : Params) (x : Packet) (s : State) :
    (isResetReply p x = true ∧ s.mapLink (detectReset p x) = s.mapLink resetTrackers) ∨
    (¬ isResetReply p x = true ∧ s.mapLink (detectReset p x) = s) := by
  by_cases hreset : isResetReply p x = true
  · exact .inl ⟨hreset, by rw [State.mapLink, detectReset, if_pos hreset, State.mapLink]⟩
  · exact .inr ⟨hreset, by rw [State.mapLink, detectReset, if_neg hreset]⟩

/-- Sending touches the tracker only through reset detection on its head (R274). -/
theorem sendingAction_silent {now : Nat} {h : Packet} {s t : State} (hgap : s.env.gaps.duringWrite = [])
    (e : sendingAction now h s = .next t) :
    Silent s t ∨ (isResetReply s.params h = true ∧ Silent (s.mapLink resetTrackers) t) := by
  unfold sendingAction at e
  split at e
  · cases e
    exact .inl ((silent_mapLink s rfl).trans (dropHead_silent _))
  · split at e
    · cases e
    · cases e
      rcases detectReset_cases s.params h s with ⟨hreset, hlink⟩ | ⟨-, hlink⟩ <;> rw [hlink]
      · exact .inr ⟨hreset, transmit_silent now _ _ hgap⟩
      · exact .inl (transmit_silent now _ _ hgap)

/-! #### Waiting -/

theorem takeAck_silent (a : Packet) (rest : List Packet) (s : State) : Silent s (takeAck a rest s) :=
  (silent_mapLink s rfl).trans (silent_fire _ rfl)

theorem scanAcks_silent (seq : Byte) (q : List Packet) (s : State) : Silent s (scanAcks seq q s).2 := by
  induction q generalizing s with
  | nil => exact .refl s
  | cons a q ih =>
    unfold scanAcks
    split
    · exact takeAck_silent a q s
    · split
      · exact takeAck_silent a q s
      · exact (takeAck_silent a q s).trans (ih _)

theorem onPositiveAck_silent (h : Packet) (s : State) : Silent s (onPositiveAck h s) := by
  unfold onPositiveAck
  split
  · exact silent_mapLink s rfl
  · exact terminate_silent rfl s

theorem onNegativeAck_silent (h : Packet) (s : State) : Silent s (onNegativeAck h s) := by
  unfold onNegativeAck
  split
  · exact (silent_mapLink s rfl).trans (terminate_silent rfl _)
  · exact silent_mapLink s rfl

theorem retryOrGiveUp_silent (h : Packet) (s : State) : Silent s (retryOrGiveUp h s) := by
  unfold retryOrGiveUp
  split
  · exact (silent_mapLink s rfl).trans (terminate_silent rfl _)
  · exact silent_mapLink s rfl

theorem onAckTimeout_silent (h : Packet) (s : State) : Silent s (onAckTimeout h s) :=
  (silent_fire s rfl).trans (unlessStalled_silent (retryOrGiveUp_silent h _))

theorem afterScan_silent {now : Nat} {h : Packet} {found : Option Packet} {s t : State}
    (e : afterScan now h found s = .next t) : Silent s t := by
  unfold afterScan at e
  repeat' split at e
  all_goals cases e
  · exact onPositiveAck_silent h s
  · exact onNegativeAck_silent h s
  · exact onAckTimeout_silent h s
  · exact .refl s

theorem waitAckAction_silent {now : Nat} {h : Packet} {s t : State} (e : waitAckAction now h s = .next t) : Silent s t := by
  unfold waitAckAction handleAcks at e
  split at e
  · cases e
    exact scanAcks_silent _ _ s
  · exact (scanAcks_silent _ _ s).trans (afterScan_silent e)

theorem waitResponseAction_silent (now : Nat) (h : Packet) (s : State) : Silent s (waitResponseAction now h s) := by
  unfold waitResponseAction
  split
  · exact (silent_mapLink s rfl).trans (dropHead_silent _)
  · split
    · exact terminate_silent rfl s
    · exact .refl s

/-- An action on the head of `Q_OUT` that completes had a head to act on (R14, R272). -/
theorem withHead_next {s t : State} {f : Packet → Host.Outcome State Fault Refusal} (e : withHead s f = .next t) :
    ∃ h ∈ s.link.qOut, f h = .next t := by
  unfold withHead at e
  split at e
  · cases e
  next h q hq => exact ⟨h, by simp [hq], e⟩

/-- Phase 3 beside no other agent delivers nothing, and touches the tracker only where it sends a reset reply (R268, R274). -/
theorem phase3_silent {now : Nat} {s t : State} (hgap : s.env.gaps.duringWrite = []) (e : phase3 now s = .next t) :
    Silent s t ∨ ((∃ h ∈ s.link.qOut, isResetReply s.params h = true) ∧ Silent (s.mapLink resetTrackers) t) := by
  unfold phase3 at e
  split at e
  · cases e
    exact .inl (idleAction_silent s)
  · obtain ⟨h, hmem, e⟩ := withHead_next e
    exact (sendingAction_silent hgap e).imp_right fun ⟨hreset, hsilent⟩ => ⟨⟨h, hmem, hreset⟩, hsilent⟩
  · obtain ⟨h, -, e⟩ := withHead_next e
    exact .inl (waitAckAction_silent e)
  · obtain ⟨h, -, e⟩ := withHead_next e
    cases e
    exact .inl (waitResponseAction_silent now h s)

/-- Reset detection or not, phase 3 beside no other agent delivers nothing. -/
theorem phase3_trace {now : Nat} {s t : State} (hgap : s.env.gaps.duringWrite = []) (e : phase3 now s = .next t) :
    ∃ out, t.trace = s.trace ++ out ∧ deliveries out = [] := by
  rcases phase3_silent hgap e with h | ⟨-, h⟩ <;> exact h.trace

theorem phase3_stop {now : Nat} {s t : State} (hgap : s.env.gaps.duringWrite = []) (e : phase3 now s = .next t) :
    t.link.stop = s.link.stop := by
  rcases phase3_silent hgap e with h | ⟨-, h⟩ <;> exact congrArg DeliveryRegs.stop h.regs

/-! ### A quiet TICK -/

theorem quietTick_iff (s : State) (now : Nat) :
    quietTick s now = true ↔
      (s.linkOpen = true ∧ s.link.stop = false) ∧ s.link.stalled = false ∧
      (s.env.writeReturns = true ∧ s.env.handlerStall = none) ∧ s.env.gaps = Gaps.none ∧
      clockBackwards s.params s.link now = false := by
  simp [quietTick, running, ready, returns, undisturbed, clockForward, and_assoc]

/-- A quiet TICK is its start and the three phases, at its time, with nothing between them (R250). -/
theorem exec_tick_of_quiet {now : Nat} {s : State} (hquiet : quietTick s now = true) :
    exec (.tick now) s =
      andThen (phase3 (timeOf s.params now)
        (phase2 (timeOf s.params now) (phase1 (startTick (timeOf s.params now) s)))) fun d => .next (endTick d) := by
  obtain ⟨⟨hopen, hstop⟩, hgo, ⟨hwrite, hret⟩, hgaps, hclock⟩ := (quietTick_iff s now).1 hquiet
  let n := timeOf s.params now
  let b := phase1 (startTick n s)
  obtain ⟨-, henv, -, -, -, -, -, -, -, hstart⟩ := startTick_frame n s
  have hb : b.env = s.env := henv
  have hframe : b.env.writeReturns = true → b.env.handlerStall = none →
      (phase2 n b).env = b.env ∧ (phase2 n b).link.stalled = b.link.stalled := (phase2_frame n b).returns
  obtain ⟨hcenv, hcstalled⟩ := hframe (hb ▸ hwrite) (hb ▸ hret)
  have hcgo : (phase2 n b).link.stalled = false := by
    rw [hcstalled, ← hgo, ← hstart]
    exact drainRaw_stalled _ _
  have hrun : runTick n s = tickPhase3 n (phase2 n b) := by
    rw [runTick, hgaps, afterPhase2]
    change tickPhase3 n (runAgents (phase2 n b).env.gaps.beforePhase3 (phase2 n b)) = _
    rw [hcenv, hb, hgaps]
    rfl
  have hexec : exec (.tick now) s = runTick n s := by
    simp [exec_tick, execTick, hopen, hstop, hgo, hclock, n]
  rw [hexec, hrun, tickPhase3, hcgo]
  rfl

/-- A quiet TICK ends as its phase 3 ends: no CLOSE has begun inside it (R250, R327). -/
theorem phase3_of_quiet {now : Nat} {s t : State} (hquiet : quietTick s now = true) (htick : exec (.tick now) s = .next t) :
    phase3 (timeOf s.params now) (phase2 (timeOf s.params now) (phase1 (startTick (timeOf s.params now) s))) = .next t := by
  obtain ⟨⟨-, hstop⟩, -, -, hgaps, -⟩ := (quietTick_iff s now).1 hquiet
  rw [exec_tick_of_quiet hquiet] at htick
  let n := timeOf s.params now
  let a := startTick n s
  obtain ⟨d, hd, hend⟩ := andThen_next htick
  obtain ⟨-, haenv, -, -, -, hastop, -⟩ := startTick_frame n s
  have hframe : WorkerFrame a (phase2 n (phase1 a)) := (phase1_frame a).trans (phase2_frame n _)
  have hgap : (phase2 n (phase1 a)).env.gaps.duringWrite = [] := by rw [hframe.gaps, haenv, hgaps]; rfl
  have hdstop : d.link.stop = false := by rw [phase3_stop hgap hd, hframe.link.stop, hastop, hstop]
  have hdone : endTick d = d := by rw [endTick, hdstop]; rfl
  cases hend
  rw [hdone]
  exact hd

/-! ### A TICK that takes a Data packet -/

theorem foldl_enq_eq_append {α : Type} (d : Option Nat) (vs q : List α) : ∃ more, vs.foldl (enq d) q = q ++ more := by
  induction vs generalizing q with
  | nil => exact ⟨[], by simp⟩
  | cons v vs ih =>
    obtain ⟨more, hmore⟩ := ih (enq d q v)
    rw [List.foldl_cons, hmore]
    rcases enq_cases d q v with ⟨-, e⟩ | ⟨-, e⟩ <;> rw [e]
    · exact ⟨more, rfl⟩
    · exact ⟨v :: more, by simp⟩

/-- With nothing held the start of a TICK only notes its time (R332, log 12). -/
theorem startTick_of_nothing_held (n : Nat) {s : State} (hheld : s.link.pending = []) :
    startTick n s = s.mapLink fun l => { l with lastNow := n } := by
  rw [startTick, State.mapLink, applyHeld]
  split
  · simp [hheld, writeAll, State.mapLink]
  · rfl

/-- Before phase 2, with nothing held, new packets stand behind the old ones in `Q_DATA`, and no register but the two input
queues, `Q_RAW` and the time has changed (R255, R332). -/
theorem phase1_startTick_eq (n : Nat) {s : State} (hheld : s.link.pending = []) :
    ∃ data acks, phase1 (startTick n s) =
      { s with link := { s.link with lastNow := n, qRaw := [], qData := s.link.qData ++ data, qAck := acks } } := by
  let ps := s.link.qRaw.map decodeFrame
  obtain ⟨data, hdata⟩ := foldl_enq_eq_append s.params.qDepth (sortedInto .qData ps) s.link.qData
  refine ⟨data, (sortedInto .qAck ps).foldl (enq s.params.qDepth) s.link.qAck, ?_⟩
  rw [startTick_of_nothing_held n hheld, phase1_eq_foldl_classify, State.mapLink, foldl_classify, ← hdata]
  rfl

/-- An intact Data packet for this node at the head of `Q_DATA`, not the answer to a Request in flight. -/
structure IncomingData (p : Packet) (rest : List Packet) (s : State) : Prop where
  queued : s.link.qData = p :: rest
  kind : p.kind = .data
  intact : p.fail = false
  dst : p.dst = s.link.cfg.localAddr
  independent : ¬ takesResponsePath s.link p = true

/-- A packet whose number is not that of a Request in flight takes the independent path (R261, R266). -/
theorem not_takesResponsePath_of_seq {l : Link} {p : Packet}
    (hno : ¬ (l.sendState ≠ .idle ∧ ∃ h q, l.qOut = h :: q ∧ h.kind = .request ∧ p.seq = h.seq)) :
    ¬ takesResponsePath l p = true := by
  rw [takesResponsePath_iff]
  rintro ⟨hsend, h, q, hout, hreq, -, -, hseq⟩
  exact hno ⟨hsend, h, q, hout, hreq, hseq⟩

/-- From `s` to `t` the packet `p` is delivered, unless its number was the last one delivered, and nothing else is. -/
def DeliversOnce (p : Packet) (s t : State) : Prop :=
  ∃ out, t.trace = s.trace ++ out ∧
    deliveries out = if s.link.lastAckSeq = some p.seq then [] else [.event (.onPacketReceived p)]

/-- The registers once `p` has been taken, delivered or not, and `rest` is left (R264). -/
def DeliveryRegs.taking (p : Packet) (rest : List Packet) (r : DeliveryRegs) : DeliveryRegs :=
  { r with qData := rest, lastAckSeq := some p.seq }

/-- Phase 2 delivers the packet once, and appends to `Q_OUT` its acknowledgement only (R263, R264). -/
theorem phase2_of_incomingData (now : Nat) {p : Packet} {rest : List Packet} {s : State} (hret : s.env.handlerStall = none)
    (hp : IncomingData p rest s) :
    DeliversOnce p s (phase2 now s) ∧ (phase2 now s).link.deliveryRegs = s.link.deliveryRegs.taking p rest ∧
    (phase2 now s).link.qOut = enq s.params.qDepth s.link.qOut (ackFor s.params s.link.cfg.localAddr p) := by
  rw [phase2_of_cons now hp.queued, handleIncoming_of_independent (s := takeData rest s) now hp.dst hp.independent]
  by_cases hdup : s.link.lastAckSeq = some p.seq
  · rw [independentPath_of_suppressed (s := takeData rest s) now (.inr hdup)]
    refine ⟨⟨[], by simp [takeData], by rw [if_pos hdup]; rfl⟩, ?_, rfl⟩
    rw [DeliveryRegs.taking, ← hdup]
    rfl
  · have hnew : ¬ (p.fail = true ∨ s.link.lastAckSeq = some p.seq) := by simp [hp.intact, hdup]
    rw [independentPath_of_delivered (s := takeData rest s) now hret hnew, recordDelivery_eq]
    exact ⟨⟨_, rfl, by rw [if_neg hdup]; rfl⟩, rfl, rfl⟩

/-- An acknowledgement is a control packet, so it is never a reset reply (R263, R268). -/
theorem not_isResetReply_ackFor (p : Params) (a : Byte) (x : Packet) : ¬ isResetReply p (ackFor p a x) = true := by
  rw [isResetReply_iff]
  rintro ⟨-, m, b, r, hmsg, -⟩
  cases hmsg

/-- A quiet TICK delivers the Data packet it takes once, and remembers its number unless it sends a reset reply (R264, R274). -/
theorem tick_of_incomingData {now : Nat} {s t : State} {p : Packet} {rest : List Packet} (hquiet : quietTick s now = true)
    (htick : exec (.tick now) s = .next t) (hheld : s.link.pending = []) (hp : IncomingData p rest s) :
    DeliversOnce p s t ∧
    ((∀ h ∈ s.link.qOut, ¬ isResetReply s.params h = true) →
      ∃ data, t.link.deliveryRegs = s.link.deliveryRegs.taking p (rest ++ data)) := by
  obtain ⟨-, -, ⟨-, hret⟩, hgaps, -⟩ := (quietTick_iff s now).1 hquiet
  have hphase := phase3_of_quiet hquiet htick
  obtain ⟨data, acks, hstart⟩ := phase1_startTick_eq (timeOf s.params now) hheld
  let n := timeOf s.params now
  let b : State :=
    { s with link := { s.link with lastNow := n, qRaw := [], qData := s.link.qData ++ data, qAck := acks } }
  let c : State := phase2 n b
  have hpb : IncomingData p (rest ++ data) b :=
    { queued := congrArg (· ++ data) hp.queued, kind := hp.kind, intact := hp.intact, dst := hp.dst
      independent := hp.independent }
  obtain ⟨⟨out, htrace, hout⟩, hregs, hqOut⟩ := phase2_of_incomingData (s := b) n hret hpb
  have hgap : c.env.gaps.duringWrite = [] := by rw [(phase2_frame n b).gaps]; exact congrArg Gaps.duringWrite hgaps
  rw [hstart] at hphase
  refine ⟨?_, fun hnoReset => ⟨data, ?_⟩⟩
  · obtain ⟨out', htrace', hout'⟩ := phase3_trace hgap hphase
    exact ⟨out ++ out', by rw [htrace', htrace, List.append_assoc], by rw [deliveries_append, hout, hout', List.append_nil]⟩
  · have hnone : ¬ ∃ h ∈ c.link.qOut, isResetReply c.params h = true := by
      rintro ⟨h, hmem, hreset⟩
      rw [(phase2_frame n b).params] at hreset
      rw [hqOut] at hmem
      rcases mem_enq hmem with hmem | rfl
      · exact hnoReset h hmem hreset
      · exact not_isResetReply_ackFor _ _ _ hreset
    have hsilent : Silent c t := (phase3_silent hgap hphase).resolve_right fun h => hnone h.1
    exact hsilent.regs.trans hregs

/-- Settles O39: the first TICK delivers the packet and remembers its number, so the second does not deliver its repetition. -/
theorem duplicateIsDeliveredOnce : Obligations.DuplicateIsDeliveredOnce := by
  unfold Obligations.DuplicateIsDeliveredOnce
  intro now now' s t u p q rest hquiet htick hquiet' htick' hq hpk hqk hpf hqf hpd hqd hseq hheld hpa hqa hreset hnew isDel
  have hp : IncomingData p (q :: rest) s := ⟨hq, hpk, hpf, hpd, not_takesResponsePath_of_seq hpa⟩
  have hnoReset : ∀ h ∈ s.link.qOut, ¬ isResetReply s.params h = true := by
    intro h hmem hr
    obtain ⟨hk, m, b, r, hmsg, hpay, hcmd, hmask⟩ := (isResetReply_iff _ h).1 hr
    exact hmask (hreset h hmem m b r hk hmsg hpay hcmd)
  obtain ⟨⟨out, ht, hout⟩, hkeeps⟩ := tick_of_incomingData hquiet htick hheld hp
  obtain ⟨data, hregs⟩ := hkeeps hnoReset
  have hcfg : t.link.cfg = s.link.cfg := congrArg DeliveryRegs.cfg hregs
  have hlast : t.link.lastAckSeq = some p.seq := congrArg DeliveryRegs.lastAckSeq hregs
  have hheld' : t.link.pending = [] := (congrArg DeliveryRegs.pending hregs).trans hheld
  have hp' : IncomingData q (rest ++ data) t :=
    ⟨congrArg DeliveryRegs.qData hregs, hqk, hqf, by rw [hcfg]; exact hqd, not_takesResponsePath_of_seq hqa⟩
  obtain ⟨⟨out', hu, hout'⟩, -⟩ := tick_of_incomingData hquiet' htick' hheld' hp'
  rw [if_neg hnew] at hout
  rw [hlast, hseq, if_pos rfl] at hout'
  have hdrop : u.trace.drop s.trace.length = out ++ out' := by rw [hu, ht, List.append_assoc, List.drop_left]
  calc (u.trace.drop s.trace.length).filter isDel
    _ = deliveries (out ++ out') := by rw [hdrop]; rfl
    _ = [.event (.onPacketReceived p)] := by rw [deliveries_append, hout, hout', List.append_nil]

end Sys2Proof.Machine

namespace Sys2Proof.Machine
open Sys2Proof Sys2Proof.Safety

/-! ### ENQUEUE: the checks -/

theorem notAccepting_iff (s : State) : notAccepting s = true ↔ s.linkOpen = false ∨ s.link.stop = true := by
  simp [notAccepting]

/-- ENQUEUE and SET_CONFIG pass the life-cycle check on an *open* link and on no other (R321, R378). -/
theorem running_iff (s : State) : running s = true ↔ ¬ (s.linkOpen = false ∨ s.link.stop = true) := by
  simp [running]

/-- `Q_OUT` is full at exactly `Q_DEPTH` packets, and never without one (R322). -/
theorem isFull_iff {α : Type} (d : Option Nat) (q : List α) : isFull d q = true ↔ d = some q.length := by
  cases d <;> simp [isFull, eq_comm]

theorem payloadTooLong_iff (c : LinkConfig) (t : Template) :
    payloadTooLong c t = true ↔ t.payload.length > c.maxFrame.toNat - 12 := decide_eq_true_iff

/-- ENQUEUE takes Data and Request packets only (R19, R322). -/
theorem not_isMessage_iff (k : Kind) : (!isMessage k) = true ↔ k ≠ .data ∧ k ≠ .request := by
  simp [isMessage]

theorem acceptable_iff (c : LinkConfig) (t : Template) :
    acceptable c t = true ↔
      ¬ (t.kind ≠ .data ∧ t.kind ≠ .request) ∧ ¬ t.payload.length > c.maxFrame.toNat - 12 := by
  rw [← not_isMessage_iff, ← payloadTooLong_iff]
  simp [acceptable]

/-! ### ENQUEUE: the reply and the packet -/

theorem exec_enqueue (t : Template) (s : State) : exec (.enqueue t) s = .next (enqueue t s) := rfl

/-- A packet is admitted behind the others, with the number of the counter, when `Q_OUT` is not full (R325). -/
theorem admitPacket_of_not_full {p : Params} {l : Link} (t : Template) (h : ¬ p.qDepth = some l.qOut.length) :
    admitPacket p t l = { l with qOut := l.qOut ++ [packetOf p l.seqCtr t], seqCtr := l.seqCtr + 1 } := by
  rw [admitPacket, enq_eq, if_neg h]

/-- ENQUEUE as R322 orders its checks, and R325 says what it does when all pass. -/
theorem enqueue_eq_ite (t : Template) (s : State) :
    enqueue t s =
      if s.linkOpen = false ∨ s.link.stop = true then s.refuse .notOpen
      else if t.kind ≠ .data ∧ t.kind ≠ .request then s.refuse .badKind
      else if t.payload.length > s.link.cfg.maxFrame.toNat - 12 then s.refuse .tooLong
      else if s.params.qDepth = some s.link.qOut.length then s.refuse .queueFull
      else { s with link := { s.link with
        qOut := s.link.qOut ++ [packetOf s.params s.link.seqCtr t], seqCtr := s.link.seqCtr + 1 } }.reply .accepted := by
  simp only [enqueue, notAccepting_iff, not_isMessage_iff, payloadTooLong_iff, isFull_iff]
  by_cases hfull : s.params.qDepth = some s.link.qOut.length
  · simp only [if_pos hfull]
  · simp only [if_neg hfull, State.mapLink, admitPacket_of_not_full t hfull]

/-- Settles O28: every check passes, so the packet is admitted with the counter's number. -/
theorem enqueueAssignsTheNextNumber : Obligations.EnqueueAssignsTheNextNumber := by
  unfold Obligations.EnqueueAssignsTheNextNumber
  intro t s hrun hacc hroom x
  obtain ⟨hkind, hlen⟩ := (acceptable_iff s.link.cfg t).1 hacc
  have hfull : ¬ s.params.qDepth = some s.link.qOut.length := by simp [← isFull_iff, hroom]
  rw [exec_enqueue, enqueue_eq_ite, if_neg ((running_iff s).1 hrun), if_neg hkind, if_neg hlen, if_neg hfull]
  rfl

/-- Settles O29: ENQUEUE's own chain of checks, each written as the rule states it. -/
theorem enqueueChecksInOrder : Obligations.EnqueueChecksInOrder := by
  unfold Obligations.EnqueueChecksInOrder
  intro t s
  rw [exec_enqueue, enqueue_eq_ite]
  simp only [apply_ite Host.Outcome.next]

/-! ### SET_CONFIG: register numbers -/

/-- The number of a register (R124). -/
def numberOf (r : CfgReg) : BitVec 3 :=
  match r with
  | .localAddr => 0 | .ackTimeout => 1 | .respTimeout => 2 | .maxRetx => 3 | .idleDelay => 4 | .maxFrame => 5
  | .workerPriority => 6

/-- The number 7 names no register (R124). -/
theorem regOf_seven : regOf 7 = none := rfl

@[simp] theorem regOf_numberOf (r : CfgReg) : regOf (numberOf r) = some r := by cases r <;> rfl

/-- The registers in the order of their numbers (R124). -/
def registers : List CfgReg := [.localAddr, .ackTimeout, .respTimeout, .maxRetx, .idleDelay, .maxFrame, .workerPriority]

theorem registers_getElem?_numberOf (r : CfgReg) : registers[(numberOf r).toNat]? = some r := by cases r <;> rfl

/-- Every number but 7 is the number of a register (R124). -/
theorem exists_numberOf_eq {reg : BitVec 3} (h : reg ≠ 7) : ∃ r, numberOf r = reg := by
  have hall : ∀ n : BitVec 3, n ≠ 7 → ∃ r ∈ registers, numberOf r = n := by decide
  obtain ⟨r, -, hr⟩ := hall reg h
  exact ⟨r, hr⟩

theorem legalTime_iff (p : Params) (v : Nat) : legalTime p v = true ↔ ∀ w, p.timeW = some w → v < 2 ^ w := by
  unfold legalTime
  cases p.timeW <;> simp

/-- The legal values of R333, by register number. -/
theorem legalValue_iff (p : Params) (r : CfgReg) (v : Nat) :
    legalValue p r v = true ↔
      (numberOf r = 0 → v ≤ 255) ∧
      (numberOf r = 1 ∨ numberOf r = 2 ∨ numberOf r = 4 → ∀ w, p.timeW = some w → v < 2 ^ w) ∧
      (numberOf r = 3 → v ≤ 254) ∧ (numberOf r = 5 → 12 ≤ v ∧ v ≤ 65535) := by
  cases r <;> simp [numberOf, legalValue, legalTime_iff]

/-- The write of R330, by register number. -/
theorem writeReg_eq_ite (c : LinkConfig) (r : CfgReg) (v : Nat) :
    writeReg c r v =
      if numberOf r = 0 then { c with localAddr := BitVec.ofNat 8 v }
      else if numberOf r = 1 then { c with ackTimeout := v }
      else if numberOf r = 2 then { c with respTimeout := v }
      else if numberOf r = 3 then { c with maxRetx := BitVec.ofNat 8 v }
      else if numberOf r = 4 then { c with idleDelay := v }
      else if numberOf r = 5 then { c with maxFrame := BitVec.ofNat 16 v }
      else { c with workerPriority := v } := by
  cases r <;> rfl

/-! ### SET_CONFIG: the checks, the write and the hold -/

theorem linkIdle_iff (l : Link) : linkIdle l = true ↔ l.sendState = .idle ∧ l.rxBuf = [] := by
  simp [linkIdle]

theorem setOrHold_of_idle {l : Link} (r : CfgReg) (v : Nat) (h : l.sendState = .idle ∧ l.rxBuf = []) :
    setOrHold r v l = { l with cfg := writeReg l.cfg r v } := if_pos ((linkIdle_iff l).2 h)

theorem setOrHold_of_not_idle {l : Link} (r : CfgReg) (v : Nat) (h : ¬ (l.sendState = .idle ∧ l.rxBuf = [])) :
    setOrHold r v l = { l with pending := l.pending ++ [(r, v)] } := if_neg (mt (linkIdle_iff l).1 h)

theorem exec_setConfig (reg : BitVec 3) (v : Nat) (s : State) : exec (.setConfig reg v) s = .next (setConfig reg v s) := rfl

theorem setConfig_of_notAccepting (reg : BitVec 3) (v : Nat) {s : State} (h : s.linkOpen = false ∨ s.link.stop = true) :
    setConfig reg v s = s.refuse .notOpen := if_pos ((notAccepting_iff s).2 h)

section Running

variable {s : State} (hrun : running s = true)

include hrun

theorem notAccepting_of_running : ¬ notAccepting s = true := mt (notAccepting_iff s).1 ((running_iff s).1 hrun)

theorem setConfig_seven (v : Nat) : setConfig 7 v s = s.refuse .badReg := by
  rw [setConfig, if_neg (notAccepting_of_running hrun), regOf_seven]

/-- For a register that exists, SET_CONFIG turns on the value alone (R330). -/
theorem setConfig_numberOf (r : CfgReg) (v : Nat) :
    setConfig (numberOf r) v s =
      if legalValue s.params r v then (s.mapLink (setOrHold r v)).reply .accepted else s.refuse .badValue := by
  rw [setConfig, if_neg (notAccepting_of_running hrun), regOf_numberOf]

theorem setConfig_of_legal {r : CfgReg} {v : Nat} (hlegal : legalValue s.params r v = true) :
    setConfig (numberOf r) v s = (s.mapLink (setOrHold r v)).reply .accepted := by
  rw [setConfig_numberOf hrun, if_pos hlegal]

theorem setConfig_of_not_legal {r : CfgReg} {v : Nat} (hlegal : ¬ legalValue s.params r v = true) :
    setConfig (numberOf r) v s = s.refuse .badValue := by
  rw [setConfig_numberOf hrun, if_neg hlegal]

end Running

/-- Settles O31: the number is traded for its register, whose legal values and whose write the rules give by number. -/
theorem setConfigChecksThenWritesOrHolds : Obligations.SetConfigChecksThenWritesOrHolds := by
  unfold Obligations.SetConfigChecksThenWritesOrHolds
  intro reg v s c legal idle written
  rw [exec_setConfig]
  refine ⟨fun hclosed => ?_, fun hrun hseven => ?_, fun hrun hreg hillegal => ?_, fun hrun hreg hlegal hidle => ?_,
    fun hrun hreg hlegal hbusy => ?_⟩
  · rw [setConfig_of_notAccepting reg v hclosed]
  · rw [hseven, setConfig_seven hrun]
  · obtain ⟨r, rfl⟩ := exists_numberOf_eq hreg
    rw [setConfig_of_not_legal hrun (mt (legalValue_iff s.params r v).1 hillegal)]
  · obtain ⟨r, rfl⟩ := exists_numberOf_eq hreg
    have hwritten : writeReg c r v = written := writeReg_eq_ite c r v
    rw [setConfig_of_legal hrun ((legalValue_iff s.params r v).2 hlegal), State.mapLink, setOrHold_of_idle r v hidle, hwritten]
    rfl
  · obtain ⟨r, rfl⟩ := exists_numberOf_eq hreg
    refine ⟨r, registers_getElem?_numberOf r, ?_⟩
    rw [setConfig_of_legal hrun ((legalValue_iff s.params r v).2 hlegal), State.mapLink, setOrHold_of_not_idle r v hbusy]
    rfl

end Sys2Proof.Machine

namespace Sys2Proof
open Sys2Proof.Machine

/-! ### The operation and register levels: operands are read to their end -/

/-- An operation is read back from its code and operands, and what follows it is left (R123, log 3). -/
theorem decodeOperation_encode_append {i : Instr} (hlevel : (encode i).1 = .operation) (rest : List Byte) :
    decodeOperation ((encode i).2 ++ rest) = .ok (i, rest) := by
  cases i with
  | openLink a => simp [encode, decodeOperation, readByte, build]
  | close => simp [encode, decodeOperation]
  | enqueue t => simp [encode, decodeOperation, readTemplate_writeTemplate, build]
  | setConfig reg v =>
    simpa [encode, decodeOperation, readNat_writeNat, build2, build] using
      congrArg (build2 .setConfig readNat) (readReg_register reg (writeNat v ++ rest))
  | tick now => simp [encode, decodeOperation, readNat_writeNat, build]
  | rxByte b => simp [encode, decodeOperation, readByte, build]
  | crc16 buf n => simp [encode, decodeOperation, readBytes_writeBytes, readNat_writeNat, build2, build]
  | stuff x => simp [encode, decodeOperation, readBytes_writeBytes, build]
  | unstuff y => simp [encode, decodeOperation, readBytes_writeBytes, build]
  | encode p => simp [Sys2Proof.encode, decodeOperation, readPacket_writePacket, build]
  | decode r => simp [encode, decodeOperation, readBytes_writeBytes, build]
  | _ => cases hlevel

/-- A register write is read back from the register's number and the value, and what follows it is left (R124, log 3). -/
theorem decodeRegister_encode_append {i : Instr} (hlevel : (encode i).1 = .register) (rest : List Byte) :
    decodeRegister ((encode i).2 ++ rest) = .ok (i, rest) := by
  cases i with
  | setLocalAddr v => simp [encode, decodeRegister, readByte, build]
  | setAckTimeout v => simp [encode, decodeRegister, readNat_writeNat, build]
  | setRespTimeout v => simp [encode, decodeRegister, readNat_writeNat, build]
  | setMaxRetx v => simp [encode, decodeRegister, readByte, build]
  | setIdleDelay v => simp [encode, decodeRegister, readNat_writeNat, build]
  | setMaxFrame v => exact congrArg (build .setMaxFrame) (readWord16_crcBytes v rest)
  | setWorkerPriority v => simp [encode, decodeRegister, readNat_writeNat, build]
  | setReserved7 => simp [encode, decodeRegister]
  | _ => cases hlevel

/-- At the two levels with operands, decoding inverts encoding in front of any bytes (log 3). -/
theorem decodeAt_encode_append {i : Instr} (hlevel : (encode i).1 = .operation ∨ (encode i).1 = .register)
    (rest : List Byte) : decodeAt (encode i).1 ((encode i).2 ++ rest) = .ok (i, rest) := by
  rcases hlevel with hop | hreg
  · rw [hop]
    exact decodeOperation_encode_append hop rest
  · rw [hreg]
    exact decodeRegister_encode_append hreg rest

/-- Settles O17: each operand's reader stops where its writer stopped. -/
theorem operandsEndWhereTheyEnd : Obligations.OperandsEndWhereTheyEnd := by
  unfold Obligations.OperandsEndWhereTheyEnd
  intro i rest _ hlevel
  exact decodeAt_encode_append hlevel rest

/-! ### The levels below: one item, one byte or one frame -/

/-- A stream byte that is neither delimiter is content (R111). -/
theorem decodeStream_content {b : Byte} (hsoh : b ≠ sohByte) (heot : b ≠ eotByte) :
    decodeStream [b] = .ok (.content b, []) := by
  rw [decodeStream, if_neg hsoh, if_neg heot]

/-- The nine canonical escapes have rows of their own; every other second byte is row ESC_ANY (R121). -/
theorem escapeRow_of_not_mem {v : Byte} (h : v ∉ escapeCodes) : escapeRow v = .escAny v := by
  have hcodes : escapeCodes = [0x40, 0x41, 0x42, 0x43, 0x44, 0x4A, 0x4D, 0x50, 0x57] := by decide
  simp only [hcodes, List.mem_cons, List.not_mem_nil, or_false, not_or] at h
  simp only [escapeRow, h, if_false]

/-- A header byte 1 selects the row of its kind, with its other fields (R114, R118). -/
theorem decodeHeader_headerByte1 (e : Bool) (p : BitVec 4) (k : Kind) :
    decodeHeader [headerByte1 e p k] = .ok (kindRow k e p, []) := by
  rw [decodeHeader, kindField_headerByte1, encryptedField_headerByte1, portField_headerByte1]

/-- Five bytes of a kind without a message are a Format C form (R112). -/
theorem decodeUnstuffed_headerBytes {h : Header} (hk : isMessage h.kind = false) :
    decodeUnstuffed (headerBytes h) = .ok (.formatC h, []) := by
  have hheader : parseHeader (headerBytes h) = h := by simpa using parseHeader_headerBytes h []
  have hlength : (headerBytes h).length = 5 := rfl
  simp [decodeUnstuffed, hheader, hk, hlength]

/-- A Format M form is read field by field; its length field agrees with its length (R115). -/
theorem decodeUnstuffed_messageBody {h : Header} (hk : isMessage h.kind = true) (m : Message) {payload : List Byte}
    (hlen : payload.length ≤ 65535) (crc : Word16) :
    decodeUnstuffed (messageBody h m payload ++ crcBytes crc) = .ok (.formatM h m payload crc, []) := by
  have hheader : parseHeader (messageBody h m payload ++ crcBytes crc) = h := parseHeader_messageBody h m payload _
  have hu : (messageBody h m payload ++ crcBytes crc).length = payload.length + 12 := length_messageBody_crcBytes h m payload crc
  have hlow : payload.length + 12 - 2 = (messageBody h m payload).length := by rw [length_messageBody]; omega
  have hhigh : payload.length + 12 - 1 = (messageBody h m payload).length + 1 := by rw [length_messageBody]; omega
  rw [decodeUnstuffed, hheader, hu, if_neg (by omega), if_pos hk, if_neg (by omega), Nat.add_sub_cancel,
    if_pos (plenField_messageBody h m hlen _), parseMessage_messageBody, drop_ten_messageBody, hlow, hhigh,
    word16_last_crcBytes, List.take_left]

/-- A wire form is the stuffed content of the form it stands for, between its delimiters (R117). -/
theorem decodeWire_wireForm (u : List Byte) : decodeWire (wireForm u) = .ok (.wire u, []) := by
  rw [decodeWire, frameContent_wireForm, unstuff_stuff, if_pos rfl]

/-- Settles O16: the levels with operands by `decodeAt_encode_append`, the others row by row. -/
theorem decodeEncodeAgree : Obligations.DecodeEncodeAgree := by
  unfold Obligations.DecodeEncodeAgree
  intro i hwf
  by_cases hlevel : (encode i).1 = .operation ∨ (encode i).1 = .register
  · simpa using decodeAt_encode_append hlevel []
  · cases i with
    | soh => rfl
    | eot => rfl
    | content b =>
      obtain ⟨hsoh, heot⟩ : b ≠ sohByte ∧ b ≠ eotByte := by simpa [Instr.wf] using hwf
      exact decodeStream_content hsoh heot
    | esc00 => rfl
    | esc01 => rfl
    | esc02 => rfl
    | esc03 => rfl
    | esc04 => rfl
    | esc0A => rfl
    | esc0D => rfl
    | esc10 => rfl
    | esc17 => rfl
    | escAny v =>
      have hv : v ∉ escapeCodes := by simpa [Instr.wf] using hwf
      exact congrArg (fun row => Except.ok (row, [])) (escapeRow_of_not_mem hv)
    | shiftDangling => rfl
    | plain b =>
      have hb : b ≠ shiftByte := by simpa [Instr.wf] using hwf
      exact if_neg hb
    | kindData e p => exact decodeHeader_headerByte1 e p _
    | kindReserved e p => exact decodeHeader_headerByte1 e p _
    | kindPositiveAck e p => exact decodeHeader_headerByte1 e p _
    | kindNegativeAck e p => exact decodeHeader_headerByte1 e p _
    | kindRequest e p => exact decodeHeader_headerByte1 e p _
    | kind5 e p => exact decodeHeader_headerByte1 e p _
    | kind6 e p => exact decodeHeader_headerByte1 e p _
    | kind7 e p => exact decodeHeader_headerByte1 e p _
    | formatC h => exact decodeUnstuffed_headerBytes (by simpa [Instr.wf] using hwf)
    | formatM h m payload crc =>
      obtain ⟨hk, hlen⟩ : isMessage h.kind = true ∧ payload.length ≤ 65535 := by simpa [Instr.wf] using hwf
      exact decodeUnstuffed_messageBody hk m hlen crc
    | wire u => exact decodeWire_wireForm u
    | _ => simp [encode] at hlevel

/-- Settles O18: the decoder's tables read the first six; the last three are forms the level lemmas read. -/
theorem writtenOutEncodingsDecode : Obligations.WrittenOutEncodingsDecode := by
  unfold Obligations.WrittenOutEncodingsDecode
  have hframe : [0x01, 0x02, 0x07, 0x42, 0x41] = headerBytes
      { parity := 0, version := 1, encrypted := false, port := 0, kind := .positiveAck, seq := 7, src := 0x42, dst := 0x41 } := by
    decide
  have hwire : [0x01, 0x10, 0x41, 0x10, 0x42, 0x07, 0x42, 0x41, 0x04] = wireForm [0x01, 0x02, 0x07, 0x42, 0x41] := by decide
  refine ⟨rfl, rfl, rfl, rfl, rfl, rfl, decodeHeader_headerByte1 true 5 .request, ?_, ?_⟩
  · rw [hframe]
    exact decodeUnstuffed_headerBytes rfl
  · rw [hwire]
    exact decodeWire_wireForm _

end Sys2Proof

namespace Sys2Proof.Machine
open Sys2Proof

/-! ### The bit-serial CRC is linear over XOR -/

/-- One single-bit step as a XOR with the reflected polynomial or with nothing (R152). -/
theorem crcBitStep_eq_xor (c : Word16) : crcBitStep c = c >>> 1 ^^^ if c.getLsbD 0 then 0xA001 else 0 := by
  rw [crcBitStep]
  split <;> simp

/-- The polynomial enters a sum of two steps when exactly one of the two low bits is set. -/
theorem ite_lowBit_xor (p q : Bool) :
    (if (p ^^ q) = true then 0xA001 else (0 : Word16)) = (if p = true then 0xA001 else 0) ^^^ if q = true then 0xA001 else 0 := by
  cases p <;> cases q <;> rfl

theorem xor_xor_xor_swap (a b c d : Word16) : a ^^^ b ^^^ (c ^^^ d) = a ^^^ c ^^^ (b ^^^ d) := by
  rw [BitVec.xor_assoc, BitVec.xor_assoc, ← BitVec.xor_assoc b c d, BitVec.xor_comm b c, BitVec.xor_assoc c b d]

theorem crcBitStep_xor (a b : Word16) : crcBitStep (a ^^^ b) = crcBitStep a ^^^ crcBitStep b := by
  rw [crcBitStep_eq_xor, crcBitStep_eq_xor a, crcBitStep_eq_xor b, BitVec.ushiftRight_xor_distrib, BitVec.getLsbD_xor]
  rw [ite_lowBit_xor]
  exact xor_xor_xor_swap _ _ _ _

theorem crcEightSteps_xor (a b : Word16) : crcEightSteps (a ^^^ b) = crcEightSteps a ^^^ crcEightSteps b := by
  simp only [crcEightSteps, crcBitStep_xor]

/-- A step loses nothing: the polynomial sets the top bit, so a result of 0 comes from a shift, of 0. -/
theorem eq_zero_of_crcBitStep_eq_zero {c : Word16} (h : crcBitStep c = 0) : c = 0 := by
  rw [crcBitStep_eq_xor] at h
  cases hlow : c.getLsbD 0 with
  | true =>
    have htop := congrArg (fun x : Word16 => x.getLsbD 15) h
    simp [hlow] at htop
  | false =>
    rw [hlow, if_neg Bool.false_ne_true] at h
    have hshift : c >>> 1 = 0 := BitVec.xor_zero.symm.trans h
    apply BitVec.eq_of_getLsbD_eq
    intro i hi
    cases i with
    | zero => simpa using hlow
    | succ i => simpa [Nat.add_comm] using congrArg (fun x : Word16 => x.getLsbD i) hshift

theorem eq_zero_of_crcEightSteps_eq_zero {c : Word16} (h : crcEightSteps c = 0) : c = 0 := by
  rw [crcEightSteps] at h
  iterate 8 replace h := eq_zero_of_crcBitStep_eq_zero h
  exact h

/-! ### The table-driven update is eight single-bit steps -/

/-- A 16-bit value is its high byte, shifted, XOR its low byte. -/
theorem high_xor_low (c : Word16) : (highByte c).zeroExtend 16 <<< 8 ^^^ (lowByte c).zeroExtend 16 = c := by
  apply BitVec.eq_of_getLsbD_eq
  intro i hi
  by_cases h8 : i < 8
  · simp [highByte, lowByte, h8, hi]
  · have hrange : i - 8 < 8 := by omega
    have hback : 8 + (i - 8) = i := by omega
    simp [highByte, lowByte, h8, hi, hrange, hback]

/-- On a byte in the high half eight steps only shift (R152). -/
theorem crcEightSteps_high : ∀ b : Byte, crcEightSteps (b.zeroExtend 16 <<< 8) = b.zeroExtend 16 := by decide +kernel

/-- The table holds what eight single-bit steps make of its index (R152). -/
theorem crcTable_getD : ∀ b : Byte, crcTable.getD b.toNat 0 = crcEightSteps (b.zeroExtend 16) := by decide +kernel

/-- Masking to eight bits leaves the low byte. -/
theorem toNat_and_FF (c : Word16) : (c &&& 0x00FF).toNat = (lowByte c).toNat := by
  have hmask : (0x00FF : Word16).toNat = 2 ^ 8 - 1 := rfl
  rw [BitVec.toNat_and, hmask, Nat.and_two_pow_sub_one_eq_mod]
  simp [lowByte]

/-- A byte XORed in does not reach the high half. -/
theorem highByte_xor_zeroExtend (c : Word16) (b : Byte) :
    (highByte (c ^^^ b.zeroExtend 16)).zeroExtend 16 = c >>> 8 := by
  apply BitVec.eq_of_getLsbD_eq
  intro i hi
  by_cases h8 : i < 8
  · simp [highByte, h8, hi]
  · have hhigh : (highByte (c ^^^ b.zeroExtend 16)).getLsbD i = false := BitVec.getLsbD_of_ge _ _ (by omega)
    have hout : c.getLsbD (8 + i) = false := BitVec.getLsbD_of_ge _ _ (by omega)
    simp [hhigh, hout]

/-- One table update is eight single-bit steps of the register with the byte XORed in (R151, R153). -/
theorem crcUpdate_eq_crcEightSteps (c : Word16) (b : Byte) : crcUpdate c b = crcEightSteps (c ^^^ b.zeroExtend 16) := by
  let d : Word16 := c ^^^ b.zeroExtend 16
  calc crcUpdate c b
    _ = c >>> 8 ^^^ crcTable.getD (lowByte d).toNat 0 := by rw [crcUpdate, toNat_and_FF]
    _ = crcEightSteps ((highByte d).zeroExtend 16 <<< 8) ^^^ crcEightSteps ((lowByte d).zeroExtend 16) := by
      rw [crcTable_getD, crcEightSteps_high, highByte_xor_zeroExtend]
    _ = crcEightSteps d := by rw [← crcEightSteps_xor, high_xor_low]

/-- Settles O3: byte by byte, by `crcUpdate_eq_crcEightSteps`. -/
theorem crcTableFormEqualsBitSerialForm : Obligations.CrcTableFormEqualsBitSerialForm := by
  unfold Obligations.CrcTableFormEqualsBitSerialForm
  intro buf
  have hstep : crcUpdate = fun c b => crcEightSteps (c ^^^ b.zeroExtend 16) := by
    funext c b
    exact crcUpdate_eq_crcEightSteps c b
  rw [crc16_length, hstep]

/-! ### Only a buffer's own CRC checks out -/

/-- Two bytes, low byte first, bring the register to 0 only when they are what it holds (R154). -/
theorem foldl_crcUpdate_crcBytes_eq_zero_iff (c k : Word16) : (crcBytes k).foldl crcUpdate c = 0 ↔ k = c := by
  constructor
  · intro h
    have hsum : (crcBytes k).foldl crcUpdate c = crcEightSteps (crcEightSteps (c ^^^ k)) :=
      calc crcUpdate (crcUpdate c (lowByte k)) (highByte k)
        _ = crcEightSteps (crcEightSteps (c ^^^ (lowByte k).zeroExtend 16) ^^^
              crcEightSteps ((highByte k).zeroExtend 16 <<< 8)) := by
          rw [crcUpdate_eq_crcEightSteps, crcUpdate_eq_crcEightSteps, crcEightSteps_high]
        _ = crcEightSteps (crcEightSteps (c ^^^ k)) := by
          rw [← crcEightSteps_xor, BitVec.xor_assoc, BitVec.xor_comm ((lowByte k).zeroExtend 16), high_xor_low]
    have hzero : c ^^^ k = 0 := eq_zero_of_crcEightSteps_eq_zero (eq_zero_of_crcEightSteps_eq_zero (hsum ▸ h))
    exact (BitVec.xor_eq_zero_iff.1 hzero).symm
  · rintro rfl
    exact foldl_crcUpdate_crcBytes k

theorem crc16_append_crcBytes_eq_zero_iff (m : List Byte) (k : Word16) :
    crc16 (m ++ crcBytes k) (m ++ crcBytes k).length = 0 ↔ k = crc16 m m.length := by
  rw [crc16_length, List.foldl_append, ← crc16_length, foldl_crcUpdate_crcBytes_eq_zero_iff]

/-! ### The frame rows -/

/-- An unstuffed form as an instruction replies with what DECODE reads in it (log 4). -/
theorem exec_formatC (h : Header) (s : State) :
    exec (.formatC h) s = .next (s.reply (.packet (parsePacket (headerBytes h)))) := rfl

theorem exec_formatM (h : Header) (m : Message) (payload : List Byte) (crc : Word16) (s : State) :
    exec (.formatM h m payload crc) s =
      .next (s.reply (.packet (parsePacket (messageBody h m payload ++ crcBytes crc)))) := rfl

/-- Settles O15: both forms are read field by field, and the CRC test passes for the right CRC only. -/
theorem formatRowsDecode : Obligations.FormatRowsDecode := by
  unfold Obligations.FormatRowsDecode
  refine ⟨fun h s hk => ?_, fun h m payload crc s hk hlen => ?_⟩
  · rw [exec_formatC, parsePacket_headerBytes hk]
  · let u := messageBody h m payload ++ crcBytes crc
    have hfail : (crc16 u u.length != 0) = decide (crc ≠ messageCrc h m payload) := by
      rw [Bool.eq_iff_iff, bne_iff_ne, decide_eq_true_iff]
      exact not_congr (crc16_append_crcBytes_eq_zero_iff (messageBody h m payload) crc)
    rw [exec_formatM, parsePacket_messageBody hk m hlen, hfail]

end Sys2Proof.Machine

namespace Sys2Proof.Machine
open Sys2Proof

/-! ### What stuffed content looks like (R172) -/

/-- The second byte of an escape pair is one of the escape codes (R121). -/
theorem escapeXor_mem_escapeCodes {b : Byte} (h : isReserved b = true) : escapeXor b ∈ escapeCodes :=
  List.mem_map_of_mem ((isReserved_iff b).1 h)

/-- An escape code is no reserved byte, so no escape pair holds a delimiter (R172). -/
theorem not_isReserved_of_mem_escapeCodes {c : Byte} (h : c ∈ escapeCodes) : ¬ isReserved c = true := by
  have hall : ∀ c ∈ escapeCodes, ¬ isReserved c = true := by decide
  exact hall c h

/-- Each reserved byte costs one byte more (R172). -/
theorem length_stuff (x : List Byte) : (stuff x).length = x.length + (x.filter isReserved).length := by
  induction x with
  | nil => rfl
  | cons b x ih =>
    by_cases h : isReserved b = true
    · simp [stuff_cons_of_isReserved h, h, ih]; omega
    · simp [stuff_cons_of_not_isReserved h, h, ih]; omega

theorem stuff_append (x y : List Byte) : stuff (x ++ y) = stuff x ++ stuff y := by
  induction x with
  | nil => rfl
  | cons b x ih => rw [List.cons_append, stuff, ih, stuff, List.append_assoc]

/-- The shift marker is the only reserved byte of stuffed content (R172). -/
theorem eq_shift_of_mem_stuff {x : List Byte} {b : Byte} (hmem : b ∈ stuff x) (hb : isReserved b = true) :
    b = shiftByte := by
  induction x with
  | nil => simp at hmem
  | cons a x ih =>
    by_cases h : isReserved a = true
    · rw [stuff_cons_of_isReserved h] at hmem
      rcases List.mem_cons.1 hmem with rfl | hmem
      · rfl
      · rcases List.mem_cons.1 hmem with rfl | hmem
        · exact absurd hb (not_isReserved_of_mem_escapeCodes (escapeXor_mem_escapeCodes h))
        · exact ih hmem
    · rw [stuff_cons_of_not_isReserved h] at hmem
      rcases List.mem_cons.1 hmem with rfl | hmem
      · exact absurd hb h
      · exact ih hmem

/-- Neither delimiter occurs in stuffed content (R172). -/
theorem soh_not_mem_stuff (x : List Byte) : sohByte ∉ stuff x := fun h =>
  absurd (eq_shift_of_mem_stuff h (by decide)) (by decide)

theorem eot_not_mem_stuff (x : List Byte) : eotByte ∉ stuff x := fun h =>
  absurd (eq_shift_of_mem_stuff h (by decide)) (by decide)

/-- After every shift marker of stuffed content comes an escape code (R172). -/
theorem escapeCode_after_shift {x before after : List Byte} (h : stuff x = before ++ shiftByte :: after) :
    ∃ c ∈ escapeCodes, after.head? = some c := by
  induction x generalizing before with
  | nil => simp at h
  | cons b x ih =>
    by_cases hb : isReserved b = true
    · have hcode := escapeXor_mem_escapeCodes hb
      rw [stuff_cons_of_isReserved hb] at h
      match before, h with
      | [], h =>
        obtain ⟨-, rfl⟩ := List.cons.inj h
        exact ⟨escapeXor b, hcode, rfl⟩
      | [_], h =>
        obtain ⟨-, hpair⟩ := List.cons.inj h
        obtain ⟨hshift, -⟩ := List.cons.inj hpair
        exact absurd (by rw [hshift]; decide) (not_isReserved_of_mem_escapeCodes hcode)
      | _ :: _ :: before, h =>
        obtain ⟨-, hpair⟩ := List.cons.inj h
        obtain ⟨-, hrest⟩ := List.cons.inj hpair
        exact ih hrest
    · rw [stuff_cons_of_not_isReserved hb] at h
      match before, h with
      | [], h =>
        obtain ⟨hshift, -⟩ := List.cons.inj h
        exact absurd hshift (ne_shift_of_not_isReserved hb)
      | _ :: before, h =>
        obtain ⟨-, hrest⟩ := List.cons.inj h
        exact ih hrest

/-- Stuffed content has no dangling shift marker (R172). -/
theorem getLast?_stuff_ne_shift (x : List Byte) : (stuff x).getLast? ≠ some shiftByte := by
  intro hlast
  obtain ⟨before, hstuff⟩ := List.getLast?_eq_some_iff.1 hlast
  obtain ⟨c, -, hc⟩ := escapeCode_after_shift hstuff
  cases hc

/-- Settles O7: length, reserved bytes, escape codes and concatenation, each by induction on the bytes stuffed. -/
theorem stuffedContentHasNoDelimiter : Obligations.StuffedContentHasNoDelimiter := by
  unfold Obligations.StuffedContentHasNoDelimiter
  refine ⟨length_stuff, fun x b hmem hb => eq_shift_of_mem_stuff hmem hb,
    fun x => ⟨soh_not_mem_stuff x, eot_not_mem_stuff x, getLast?_stuff_ne_shift x⟩,
    fun x before after h => ?_, stuff_append⟩
  rw [List.append_assoc] at h
  exact escapeCode_after_shift h

/-! ### DECODE of any bytes -/

/-- The content between the delimiters, whatever the bytes (R201, log 15). -/
theorem frameContent_eq_dropLast (r : List Byte) : frameContent r = (r.drop 1).dropLast := by
  rw [frameContent, List.dropLast_eq_take, List.length_drop, Nat.sub_sub]

/-- DECODE of fewer than twelve bytes of a message kind (R202). -/
theorem parsePacket_of_lt_twelve {u : List Byte} (hk : isMessage (parseHeader u).kind = true) (hu : u.length < 12) :
    parsePacket u =
      { toHeader := parseHeader u, msg := some (parseMessage u), payload := []
        crc := some (word16 (byteAt u 10) (byteAt u 11)), fail := true } := by
  simp only [parsePacket, if_pos hk, if_pos hu]

/-- DECODE of a kind without a message (R205). -/
theorem parsePacket_of_not_isMessage {u : List Byte} (hk : isMessage (parseHeader u).kind = false) :
    parsePacket u =
      { toHeader := parseHeader u, msg := none, payload := [], crc := none, fail := decide (u.length < 5) } := by
  simp [parsePacket, hk]

/-- A frame too short for a header fails, whatever its kind reads as (R201, R205). -/
theorem parsePacket_fail_of_lt_five {u : List Byte} (hu : u.length < 5) : (parsePacket u).fail = true := by
  by_cases hk : isMessage (parseHeader u).kind = true
  · rw [parsePacket_of_lt_twelve hk (by omega)]
  · rw [parsePacket_of_not_isMessage (by simpa using hk)]
    exact decide_eq_true hu

/-- Settles O11: the header is read whatever follows; the rest by the kind and the length. -/
theorem decodeReadsFrames : Obligations.DecodeReadsFrames := by
  unfold Obligations.DecodeReadsFrames
  intro r s u at'
  have hheader : (parsePacket u).toHeader = parseHeader u := parsePacket_toHeader u
  have hkind : (parsePacket u).kind = (parseHeader u).kind := congrArg Header.kind hheader
  have hdecode : decodeFrame r = parsePacket u := by rw [decodeFrame, frameContent_eq_dropLast]
  refine ⟨parsePacket u, by rw [exec_decode, hdecode], congrArg Header.parity hheader, congrArg Header.version hheader,
    congrArg Header.encrypted hheader, congrArg Header.port hheader, ?_, congrArg Header.seq hheader,
    congrArg Header.src hheader, congrArg Header.dst hheader, parsePacket_fail_of_lt_five, fun hk => ?_, fun hk => ?_⟩
  · rw [hkind]
    exact kindCode_kindOf _
  · rw [hkind] at hk
    by_cases hu : u.length < 12
    · rw [parsePacket_of_lt_twelve hk hu]
      exact ⟨rfl, fun _ => ⟨rfl, rfl, rfl⟩, fun hle => absurd hu (Nat.not_lt.2 hle)⟩
    · have htail : u.length - 2 - 10 = u.length - 12 := by omega
      rw [parsePacket_of_twelve_le hk (Nat.not_lt.1 hu), List.drop_take, htail]
      refine ⟨rfl, fun hlt => absurd hlt hu, fun _ => ⟨rfl, rfl, ?_⟩⟩
      rw [Bool.or_eq_true, bne_iff_ne, bne_iff_ne]
      rfl
  · rw [hkind] at hk
    rw [parsePacket_of_not_isMessage hk]
    exact ⟨rfl, rfl, rfl, decide_eq_true_iff⟩

/-! ### The rows of stuffed content and of header byte 1 -/

/-- Settles O13: UNSTUFF of one item, which the model's rows hold as literal bytes. -/
theorem contentItemsUnstuff : Obligations.ContentItemsUnstuff := by
  unfold Obligations.ContentItemsUnstuff
  intro s
  refine ⟨rfl, rfl, rfl, rfl, rfl, rfl, rfl, rfl, rfl, fun v => ?_, rfl, fun b hb => ?_⟩
  · exact congrArg (fun x => Host.Outcome.next (s.reply (.bytes x))) (unstuff_shift_cons v [])
  · exact congrArg (fun x => Host.Outcome.next (s.reply (.bytes x))) (unstuff_cons_of_ne_shift hb [])

/-- What the codec reads from the header byte 1 of a kind (R114, R116, R210). -/
theorem readKind_eq (k : Kind) (e : Bool) (p : BitVec 4) (s : State) :
    readKind k e p s =
      .next (s.reply (.kind { encrypted := e, port := p, kind := k, format := formatOf k, queue := queueOfKind k })) := by
  rw [readKind, readKindByte, encryptedField_headerByte1, portField_headerByte1, kindField_headerByte1]

/-- Settles O14: the kind alone selects format and queue. -/
theorem kindRowsReadTheHeaderByte : Obligations.KindRowsReadTheHeaderByte := by
  unfold Obligations.KindRowsReadTheHeaderByte
  intro e p s gives
  exact ⟨readKind_eq .data e p s, readKind_eq .reserved e p s, readKind_eq .positiveAck e p s,
    readKind_eq .negativeAck e p s, readKind_eq .request e p s, readKind_eq .undefined5 e p s,
    readKind_eq .undefined6 e p s, readKind_eq .undefined7 e p s⟩

/-! ### Outside the domain of a unit -/

theorem exec_crc16_of_lt {buf : List Byte} {n : Nat} (h : buf.length < n) (s : State) :
    exec (.crc16 buf n) s = .refused .crcLength := by
  have hexec : exec (.crc16 buf n) s = execCrc16 buf n s := rfl
  rw [hexec, execCrc16, if_neg (Nat.not_le.2 h)]

/-- A kind with no format has no unstuffed form (R195). -/
theorem unstuffed_of_other {p : Packet} (hm : isMessage p.kind = false) (hc : isControl p.kind = false) :
    unstuffed p = none := by
  simp [unstuffed, hm, hc]

theorem exec_encode_of_none {p : Packet} (h : unstuffed p = none) (s : State) :
    exec (.encode p) s = .refused .encodeDomain := by
  have hexec : exec (.encode p) s = execEncode p s := rfl
  simp [hexec, execEncode, encodePacket, h]

/-- Every packet of a message kind has an unstuffed form, its message there or a free value (R192, log 14). -/
theorem unstuffed_of_messageKind {p : Packet} (hk : isMessage p.kind = true) :
    unstuffed p = some (messageBody p.toHeader (messageOf p) p.payload ++
      crcBytes (messageCrc p.toHeader (messageOf p) p.payload)) := if_pos hk

/-- A finite clock wraps, so only an unbounded one can run backwards (U8, log 12). -/
theorem clockBackwards_iff (p : Params) (l : Link) (now : Nat) :
    clockBackwards p l now = true ↔ p.timeW = none ∧ now < l.lastNow := by
  simp [clockBackwards]

theorem linkOpen_and_stop_of_running {s : State} (h : Safety.running s = true) : s.linkOpen = true ∧ s.link.stop = false := by
  simpa [Safety.running] using h

/-- Settles O10: the three domain tests, and the one formula ENCODE has for both message kinds. -/
theorem outsideTheDomainIsRefused : Obligations.OutsideTheDomainIsRefused := by
  unfold Obligations.OutsideTheDomainIsRefused
  refine ⟨fun buf n s h => exec_crc16_of_lt h s, fun p s hm hc => exec_encode_of_none (unstuffed_of_other hm hc) s,
    fun now s hrun hgo htime hback => ?_, fun p hk => ?_⟩
  · obtain ⟨hopen, hstop⟩ := linkOpen_and_stop_of_running hrun
    have hclock : clockBackwards s.params s.link now = true := (clockBackwards_iff _ _ _).2 ⟨htime, hback⟩
    simp [exec_tick, execTick, hopen, hstop, hgo, hclock]
  · refine ⟨messageOf p, lengthField p.payload.length, fun m hm => messageOf_of_some hm, toNat_lengthField, fun s => ?_⟩
    exact exec_encode_of_unstuffed (unstuffed_of_messageKind hk) s

/-! ### The numbers of the spec -/

/-- Settles O53: each numbering at every one of its values. -/
theorem codesAreTheSpecs : Obligations.CodesAreTheSpecs := by
  unfold Obligations.CodesAreTheSpecs
  exact ⟨rfl, rfl, rfl, fun p q b w => rfl, rfl, fun k => by cases k <;> rfl⟩

end Sys2Proof.Machine

namespace Sys2Proof.Machine
open Sys2Proof Sys2Proof.Safety

/-! ### A run of received bytes -/

/-- The reassembler over a chunk, byte by byte (R230). -/
def reassembleAll (d : Option Nat) (c : List Byte) (l : Link) : Link := c.foldl (fun l b => reassemble d b l) l

theorem reassembleAll_cons (d : Option Nat) (b : Byte) (c : List Byte) (l : Link) :
    reassembleAll d (b :: c) l = reassembleAll d c (reassemble d b l) := rfl

theorem reassembleAll_append (d : Option Nat) (a b : List Byte) (l : Link) :
    reassembleAll d (a ++ b) l = reassembleAll d b (reassembleAll d a l) := List.foldl_append

/-- On an open link a chunk is received by the reassembler alone (R230, R231). -/
theorem receiveBytes_of_open (c : List Byte) {s : State} (h : s.linkOpen = true) :
    receiveBytes c s = s.mapLink (reassembleAll s.params.qDepth c) := by
  induction c generalizing s with
  | nil => rfl
  | cons b c ih =>
    rw [receiveBytes_cons, receiveByte_of_open b h, ih (s := s.mapLink (reassemble s.params.qDepth b)) h]
    rfl

/-- On a closed link each byte of a chunk is refused (R321). -/
theorem receiveBytes_of_closed (c : List Byte) {s : State} (h : s.linkOpen = false) :
    receiveBytes c s = { s with replies := s.replies ++ List.replicate c.length (.refused .notOpen) } := by
  induction c generalizing s with
  | nil => simp [receiveBytes]
  | cons b c ih =>
    rw [receiveBytes_cons, receiveByte_of_closed b h, ih (s := s.refuse .notOpen) h]
    simp [State.refuse, State.reply, List.replicate_succ]

/-! ### The reassembler's step on each kind of byte -/

section Step

variable {d : Option Nat} {b : Byte} {l : Link}

/-- A start marker opens a frame when none is active (R232). -/
theorem reassemble_soh (h : l.rxBuf = []) : reassemble d sohByte l = { l with rxBuf := [sohByte] } := by
  simp [reassemble, h, scanStart]

/-- Any other byte is noise when no frame is active (R232). -/
theorem reassemble_noise (h : l.rxBuf = []) (hb : b ≠ sohByte) : reassemble d b l = l := by
  rw [reassemble, if_pos (List.isEmpty_iff.2 h), scanStart, if_neg hb, ← h]

/-- A byte within the bound that ends no frame is content (R235). -/
theorem reassemble_content (h : l.rxBuf ≠ []) (hroom : l.rxBuf.length + 1 ≤ l.cfg.maxFrame.toNat) (hb : b ≠ eotByte) :
    reassemble d b l = { l with rxBuf := l.rxBuf ++ [b] } := by
  rw [reassemble_eq_ite, if_pos ⟨List.length_pos_iff.2 h, Nat.not_lt.2 hroom⟩]
  exact if_neg hb

/-- An end marker within the bound completes the frame (R234). -/
theorem reassemble_eot (h : l.rxBuf ≠ []) (hroom : l.rxBuf.length + 1 ≤ l.cfg.maxFrame.toNat) :
    reassemble d eotByte l =
      { l with
        rxBuf := []
        qRaw := if d = some l.qRaw.length then l.qRaw else l.qRaw ++ [l.rxBuf ++ [eotByte]] } := by
  rw [reassemble_eq_ite, if_pos ⟨List.length_pos_iff.2 h, Nat.not_lt.2 hroom⟩]
  exact if_pos rfl

/-- A byte past the bound discards the frame and is taken as if none had been active (R233). -/
theorem reassemble_overBound (hfull : l.cfg.maxFrame.toNat < l.rxBuf.length + 1) :
    reassemble d b l = if b = sohByte then { l with rxBuf := [sohByte] } else { l with rxBuf := [] } := by
  rw [reassemble_eq_ite, if_neg fun h => h.2 hfull]
  rfl

end Step

/-! ### A whole wire form -/

/-- Content that fits the bound is collected in order (R235). -/
theorem reassembleAll_content (d : Option Nat) {c : List Byte} {l : Link} (h : l.rxBuf ≠ []) (hc : eotByte ∉ c)
    (hroom : l.rxBuf.length + c.length ≤ l.cfg.maxFrame.toNat) :
    reassembleAll d c l = { l with rxBuf := l.rxBuf ++ c } := by
  induction c generalizing l with
  | nil => simp [reassembleAll]
  | cons b c ih =>
    obtain ⟨hb, hc⟩ : eotByte ≠ b ∧ eotByte ∉ c := by simpa using hc
    rw [List.length_cons] at hroom
    rw [reassembleAll_cons, reassemble_content h (by omega) hb.symm, ih]
    · simp
    · simp
    · exact hc
    · simp only [List.length_append, List.length_cons, List.length_nil]; omega

/-- Bytes without a start marker leave an idle reassembler as it is (R232). -/
theorem reassembleAll_noise (d : Option Nat) {c : List Byte} {l : Link} (h : l.rxBuf = []) (hc : sohByte ∉ c) :
    reassembleAll d c l = l := by
  induction c with
  | nil => rfl
  | cons b c ih =>
    obtain ⟨hb, hc⟩ : sohByte ≠ b ∧ sohByte ∉ c := by simpa using hc
    rw [reassembleAll_cons, reassemble_noise h hb.symm, ih hc]

/-- A frame that outgrows the bound before its end marker is discarded, and what is left of it is noise (R233). -/
theorem reassembleAll_overlong (d : Option Nat) {c : List Byte} {l : Link} (h : l.rxBuf ≠ []) (hsoh : sohByte ∉ c)
    (heot : eotByte ∉ c) (hlong : l.cfg.maxFrame.toNat < l.rxBuf.length + c.length + 1) :
    reassembleAll d (c ++ [eotByte]) l = { l with rxBuf := [] } := by
  have hend : eotByte ≠ sohByte := by decide
  induction c generalizing l with
  | nil => exact (reassemble_overBound hlong).trans (if_neg hend)
  | cons b c ih =>
    obtain ⟨hb, hsoh⟩ : sohByte ≠ b ∧ sohByte ∉ c := by simpa using hsoh
    obtain ⟨hb', heot⟩ : eotByte ≠ b ∧ eotByte ∉ c := by simpa using heot
    rw [List.length_cons] at hlong
    rw [List.cons_append, reassembleAll_cons]
    by_cases hfull : l.cfg.maxFrame.toNat < l.rxBuf.length + 1
    · rw [reassemble_overBound hfull, if_neg hb.symm]
      exact reassembleAll_noise d rfl (by simp [hsoh, hend.symm])
    · rw [reassemble_content h (by omega) hb'.symm, ih]
      · simp
      · exact hsoh
      · exact heot
      · simp only [List.length_append, List.length_cons, List.length_nil]; omega

theorem wireForm_eq_cons (u : List Byte) : wireForm u = sohByte :: (stuff u ++ [eotByte]) := rfl

/-- A wire form within the bound becomes one RawFrame, lost only if `Q_RAW` is full (R84, R234). -/
theorem reassembleAll_wireForm (d : Option Nat) {u : List Byte} {l : Link} (h : l.rxBuf = [])
    (hroom : (wireForm u).length ≤ l.cfg.maxFrame.toNat) :
    reassembleAll d (wireForm u) l =
      { l with qRaw := if d = some l.qRaw.length then l.qRaw else l.qRaw ++ [wireForm u] } := by
  rw [length_wireForm] at hroom
  have hfits : 1 + (stuff u).length ≤ l.cfg.maxFrame.toNat := by omega
  have hcontent : reassembleAll d (stuff u) { l with rxBuf := [sohByte] } = { l with rxBuf := sohByte :: stuff u } :=
    reassembleAll_content d (List.cons_ne_nil _ _) (eot_not_mem_stuff u) hfits
  rw [wireForm_eq_cons, reassembleAll_cons, reassemble_soh h, reassembleAll_append, hcontent]
  simp only [h]
  exact reassemble_eot (l := { l with rxBuf := sohByte :: stuff u }) (List.cons_ne_nil _ _) hroom

/-- A wire form past the bound leaves nothing behind (R233, R412). -/
theorem reassembleAll_wireForm_overlong (d : Option Nat) {u : List Byte} {l : Link} (h : l.rxBuf = [])
    (hlong : l.cfg.maxFrame.toNat < (wireForm u).length) : reassembleAll d (wireForm u) l = l := by
  rw [length_wireForm] at hlong
  have houtgrows : l.cfg.maxFrame.toNat < 1 + (stuff u).length + 1 := by omega
  rw [wireForm_eq_cons, reassembleAll_cons, reassemble_soh h,
    reassembleAll_overlong d (List.cons_ne_nil _ _) (soh_not_mem_stuff u) (eot_not_mem_stuff u) houtgrows, ← h]

theorem exec_wire (u : List Byte) (s : State) : exec (.wire u) s = .next (receiveBytes (wireForm u) s) := rfl

/-- Row WIRE on an open link with no frame active and room for the form (R117, R231, R237). -/
theorem exec_wire_of_room {u : List Byte} {s : State} (hopen : s.linkOpen = true) (hbuf : s.link.rxBuf = [])
    (hroom : (wireForm u).length ≤ s.link.cfg.maxFrame.toNat) :
    exec (.wire u) s =
      .next { s with link := { s.link with
        qRaw := if s.params.qDepth = some s.link.qRaw.length then s.link.qRaw else s.link.qRaw ++ [wireForm u] } } := by
  rw [exec_wire, receiveBytes_of_open _ hopen, State.mapLink, reassembleAll_wireForm _ hbuf hroom]

/-- Settles O21: start marker, content and end marker in turn; on a closed link the refusals, counted. -/
theorem wireFormIsReceivedWhole : Obligations.WireFormIsReceivedWhole := by
  unfold Obligations.WireFormIsReceivedWhole
  intro u s
  refine ⟨fun hopen hbuf hroom => exec_wire_of_room hopen hbuf hroom, fun hclosed => ?_⟩
  rw [exec_wire, receiveBytes_of_closed _ hclosed]

/-- Settles O22: the frame is discarded at the bound, and stuffed content holds no start marker that could open another. -/
theorem overlongWireFormIsDiscarded : Obligations.OverlongWireFormIsDiscarded := by
  unfold Obligations.OverlongWireFormIsDiscarded
  intro u s hopen hbuf hlong
  rw [exec_wire, receiveBytes_of_open _ hopen, State.mapLink, reassembleAll_wireForm_overlong _ hbuf hlong]

/-! ### From the wire to the queues -/

/-- An unbounded queue loses nothing (R84). -/
theorem enq_none {α : Type} (q : List α) (v : α) : enq none q v = q ++ [v] := rfl

/-- A valid packet is sorted by its kind, which is a message kind or a control kind (R207, R210). -/
theorem classify_of_validPacket {p : Packet} (hp : validPacket p = true) (l : Link) :
    classify none p l =
      if isMessage p.kind then { l with qData := l.qData ++ [p] } else { l with qAck := l.qAck ++ [p] } := by
  obtain ⟨hfail, ⟨-, hk, -⟩ | ⟨hctl, -⟩⟩ := validPacket_cases hp
  · have hq : queueOf p = some .qData := (queueOf_eq_qData_iff p).2 (by simp [hk])
    simp only [classify, hq, hk, if_true, enq_none]
  · have hq : queueOf p = some .qAck := (queueOf_eq_qAck_iff p).2 (by simp [hfail, hctl])
    simp only [classify, hq, isMessage_of_isControl hctl, Bool.false_eq_true, if_false, enq_none]

/-- Settles O23: the wire form arrives as one RawFrame, which decodes to the packet, which is sorted by its kind. -/
theorem sentFrameArrivesUnchanged : Obligations.SentFrameArrivesUnchanged := by
  unfold Obligations.SentFrameArrivesUnchanged
  intro p u s hp hu hopen hbuf hraw hdepth hroom
  obtain ⟨u', hu', hparse⟩ := parsePacket_unstuffed hp
  obtain rfl : u' = u := Option.some.inj (hu'.symm.trans hu)
  let t : State := s.mapLink fun l => { l with qRaw := [wireForm u'] }
  have hreceived : exec (.wire u') s = .next t := by
    rw [exec_wire_of_room hopen hbuf hroom, hdepth, hraw]
    rfl
  have hdrained : phase1 t = s.mapLink fun l => classify none p { l with qRaw := [] } := by
    rw [phase1_eq_foldl_classify]
    simp [t, State.mapLink, hdepth, decodeFrame_wireForm, hparse]
  refine ⟨t, hreceived, ?_⟩
  rw [hdrained, State.mapLink, classify_of_validPacket hp, ← hraw]

/-! ### The stream rows -/

theorem exec_soh (s : State) : exec .soh s = .next (receiveByte sohByte s) := rfl
theorem exec_eot (s : State) : exec .eot s = .next (receiveByte eotByte s) := rfl
theorem exec_content (b : Byte) (s : State) : exec (.content b) s = .next (receiveByte b s) := rfl

/-- Settles O20: each row is the RX_BYTE of its byte, in the reassembler's four situations. -/
theorem streamRowsReachTheReassembler : Obligations.StreamRowsReachTheReassembler := by
  unfold Obligations.StreamRowsReachTheReassembler
  intro s
  have hmarkers : eotByte ≠ sohByte := by decide
  have hopens : ∀ b, s.linkOpen = true → receiveByte b s = s.mapLink (reassemble s.params.qDepth b) :=
    fun b => receiveByte_of_open b
  have hcloses : ∀ b, s.linkOpen = false → receiveByte b s = s.refuse .notOpen := fun b => receiveByte_of_closed b
  simp only [exec_soh, exec_eot, exec_content]
  refine ⟨fun hclosed => ?_, fun hopen hbuf => ?_, fun hopen hbuf hroom => ?_, fun hopen hbuf hfull => ?_⟩
  · exact ⟨by rw [hcloses _ hclosed], by rw [hcloses _ hclosed], fun b => by rw [hcloses _ hclosed]⟩
  · refine ⟨?_, ?_, fun b hb => ?_⟩ <;> rw [hopens _ hopen, State.mapLink]
    · rw [reassemble_soh hbuf]; rfl
    · rw [reassemble_noise hbuf hmarkers]
    · rw [reassemble_noise hbuf hb]
  · refine ⟨?_, ?_, fun b hb => ?_⟩ <;> rw [hopens _ hopen, State.mapLink]
    · rw [reassemble_content hbuf hroom hmarkers.symm]; rfl
    · rw [reassemble_eot hbuf hroom]; rfl
    · rw [reassemble_content hbuf hroom hb]
  · refine ⟨?_, ?_, fun b hb => ?_⟩ <;> rw [hopens _ hopen, State.mapLink, reassemble_overBound hfull]
    · rfl
    · rw [if_neg hmarkers]
    · rw [if_neg (show b ≠ sohByte from hb)]

end Sys2Proof.Machine

namespace Sys2Proof.Machine
open Sys2Proof Sys2Proof.Safety

/-! ### OPEN -/

theorem exec_openLink (a : Byte) (s : State) : exec (.openLink a) s = .next (openLink a s) := rfl

theorem openLink_of_open (a : Byte) {s : State} (h : s.linkOpen = true) : openLink a s = s.refuse .alreadyOpen := if_pos h

theorem openLink_of_failure (a : Byte) {s : State} (h : s.linkOpen = false) (ht : s.env.transportOpens = false) :
    openLink a s = (s.emit (.transportOpen false)).refuse .transportInit := by
  simp [openLink, h, ht]

/-- An OPEN the transport lets through creates the link with the values of R59, three of them free (R320, log 6). -/
theorem openLink_of_success (a : Byte) {s : State} (h : s.linkOpen = false) (ht : s.env.transportOpens = true) :
    openLink a s =
      { s.emit (.transportOpen true) with
        linkOpen := true
        link := Link.afterOpen a (timeOf s.params (Config.freeNat s.freeCtr))
          (timeOf s.params (Config.freeNat (s.freeCtr + 1))) (Config.freeNat (s.freeCtr + 2))
        freeCtr := s.freeCtr + 3 }.reply .accepted := by
  simp [openLink, h, ht]

/-- Settles O24: the three outcomes of OPEN, the last one read off field by field. -/
theorem openCreatesTheLink : Obligations.OpenCreatesTheLink := by
  unfold Obligations.OpenCreatesTheLink
  intro a s
  refine ⟨fun hopen => ?_, fun hclosed hfails => ?_, fun hclosed hopens => ?_⟩
  · rw [exec_openLink, openLink_of_open a hopen]
  · rw [exec_openLink, openLink_of_failure a hclosed hfails]
  · rw [exec_openLink, openLink_of_success a hclosed hopens]
    exact ⟨_, rfl, rfl, rfl, rfl, rfl, rfl, rfl, rfl, rfl, rfl, rfl, rfl, rfl, rfl, rfl, rfl, rfl, rfl, rfl, rfl, rfl, rfl,
      rfl, rfl, rfl, rfl, rfl⟩

/-! ### A link that is closed, or closing -/

theorem exec_close (s : State) : exec .close s = .next (close s) := rfl
theorem exec_rxByte (b : Byte) (s : State) : exec (.rxByte b) s = .next (receiveByte b s) := rfl

theorem enqueue_of_notAccepting (t : Template) {s : State} (h : s.linkOpen = false ∨ s.link.stop = true) :
    enqueue t s = s.refuse .notOpen := if_pos ((notAccepting_iff s).2 h)

theorem exec_tick_of_closed (now : Nat) {s : State} (h : s.linkOpen = false) :
    exec (.tick now) s = .next (s.refuse .notOpen) := by
  simp [exec_tick, execTick, h]

theorem close_of_closed {s : State} (h : s.linkOpen = false) : close s = s.refuse .notOpen := by simp [close, h]

/-- Settles O27: each operation tests the life cycle first. -/
theorem closedLinkRefuses : Obligations.ClosedLinkRefuses := by
  unfold Obligations.ClosedLinkRefuses
  intro s
  refine ⟨fun hclosed => ⟨fun now => exec_tick_of_closed now hclosed, fun t => ?_, fun reg v => ?_, ?_, fun b => ?_⟩,
    fun _ hstop => ⟨fun t => ?_, fun reg v => ?_⟩⟩
  · rw [exec_enqueue, enqueue_of_notAccepting t (.inl hclosed)]
  · rw [exec_setConfig, setConfig_of_notAccepting reg v (.inl hclosed)]
  · rw [exec_close, close_of_closed hclosed]
  · rw [exec_rxByte, receiveByte_of_closed b hclosed]
  · rw [exec_enqueue, enqueue_of_notAccepting t (.inr hstop)]
  · rw [exec_setConfig, setConfig_of_notAccepting reg v (.inr hstop)]

/-- A register row is the SET_CONFIG of its register (log 4). -/
theorem exec_of_register {i : Instr} (h : (encode i).1 = .register) (s : State) :
    ∃ reg v, exec i s = .next (setConfig reg v s) := by
  cases i with
  | setLocalAddr v => exact ⟨_, _, rfl⟩
  | setAckTimeout v => exact ⟨_, _, rfl⟩
  | setRespTimeout v => exact ⟨_, _, rfl⟩
  | setMaxRetx v => exact ⟨_, _, rfl⟩
  | setIdleDelay v => exact ⟨_, _, rfl⟩
  | setMaxFrame v => exact ⟨_, _, rfl⟩
  | setWorkerPriority v => exact ⟨_, _, rfl⟩
  | setReserved7 => exact ⟨_, _, rfl⟩
  | _ => cases h

/-- A stream row is the RX_BYTE of its byte (log 4). -/
theorem exec_of_stream {i : Instr} (h : (encode i).1 = .stream) (s : State) : ∃ b, exec i s = .next (receiveByte b s) := by
  cases i with
  | soh => exact ⟨_, rfl⟩
  | eot => exact ⟨_, rfl⟩
  | content b => exact ⟨_, rfl⟩
  | _ => cases h

/-- A packet of a kind with a format can be encoded (R190, R195). -/
theorem exists_encodePacket {p : Packet} (hk : isMessage p.kind = true ∨ isControl p.kind = true) :
    ∃ u, unstuffed p = some u ∧ encodePacket p = some (wireForm u) := by
  rcases hk with hm | hc
  · exact ⟨_, unstuffed_of_messageKind hm, by rw [encodePacket, unstuffed_of_messageKind hm]; rfl⟩
  · exact ⟨_, unstuffed_of_isControl hc, by rw [encodePacket, unstuffed_of_isControl hc]; rfl⟩

/-- Settles O25: at power-on the link is closed, which refuses the operations and leaves the pure units alone. -/
theorem resetIsClosed : Obligations.ResetIsClosed := by
  unfold Obligations.ResetIsClosed
  have hclosed : State.reset.linkOpen = false := rfl
  refine ⟨hclosed, rfl, rfl, fun i hi => ?_, fun x => rfl, fun y => rfl, fun buf n hn => exec_crc16_of_le hn _, fun p hk => ?_,
    fun r => rfl, fun a => ⟨_, rfl, rfl, rfl⟩⟩
  · rcases hi with hreg | hstream | rfl | ⟨t, rfl⟩ | ⟨reg, v, rfl⟩ | ⟨now, rfl⟩ | ⟨b, rfl⟩
    · obtain ⟨reg, v, he⟩ := exec_of_register hreg State.reset
      rw [he, setConfig_of_notAccepting reg v (.inl hclosed)]
    · obtain ⟨b, he⟩ := exec_of_stream hstream State.reset
      rw [he, receiveByte_of_closed b hclosed]
    · rw [exec_close, close_of_closed hclosed]
    · rw [exec_enqueue, enqueue_of_notAccepting t (.inl hclosed)]
    · rw [exec_setConfig, setConfig_of_notAccepting reg v (.inl hclosed)]
    · exact exec_tick_of_closed now hclosed
    · rw [exec_rxByte, receiveByte_of_closed b hclosed]
  · obtain ⟨u, hu, he⟩ := exists_encodePacket hk
    exact ⟨_, he, exec_encode_of_unstuffed hu _⟩

/-! ### CLOSE -/

theorem close_of_open {s : State} (h : s.linkOpen = true) : close s = closeRest (closeBegin s) := if_pos h

/-- While the worker runs, CLOSE comes to its second step (R327). -/
theorem closeEnd_of_ready {s : State} (h : s.link.stalled = false) : closeEnd s = closeFinish s := by simp [closeEnd, h]

theorem closeRest_of_undisturbed {s : State} (h : s.env.gaps.duringClose = []) : closeRest s = closeEnd s := by
  rw [closeRest, h]
  rfl

/-- Settles O26: the steps inside a CLOSE leave the link open, the trace alone and the worker running or standing as it was. -/
theorem closeEndsTheLink : Obligations.CloseEndsTheLink := by
  unfold Obligations.CloseEndsTheLink
  intro s
  simp only [exec_close]
  refine ⟨fun hclosed => by rw [close_of_closed hclosed], fun hopen hgo => ?_, fun hopen hgo hgap => ?_,
    fun hopen hstill hgap => ?_⟩
  · let b : State := runAgents (closeBegin s).env.gaps.duringClose (closeBegin s)
    have hframe : AgentFrame (closeBegin s) b := runAgents_frame _ _ hopen
    have hclose : close s = closeFinish b := by
      rw [close_of_open hopen, closeRest, closeEnd_of_ready (hframe.stalled.trans hgo)]
    refine ⟨closeFinish b, [], by rw [hclose], rfl, hframe.params, hframe.inputs, hframe.env, ?_, by simp, by simp⟩
    rw [closeFinish_trace, hframe.trace, closeBegin_trace, List.append_nil]
  · rw [close_of_open hopen, closeRest_of_undisturbed (s := closeBegin s) hgap,
      closeEnd_of_ready (s := closeBegin s) hgo]
    exact ⟨_, rfl, rfl, rfl⟩
  · rw [close_of_open hopen, closeRest_of_undisturbed (s := closeBegin s) hgap]
    rcases closeEnd_cases (closeBegin s) with ⟨-, e⟩ | e <;> rw [e]
    · exact ⟨_, rfl, rfl, rfl, rfl, .inl ⟨rfl, hopen, rfl, rfl⟩⟩
    · exact ⟨_, rfl, rfl, rfl, rfl, .inr ⟨rfl, rfl, rfl⟩⟩

/-! ### ENQUEUEs in a row -/

/-- The state once an ENQUEUE has been accepted (R325). -/
def enqueued (t : Template) (s : State) : State :=
  { s with link := { s.link with
    qOut := s.link.qOut ++ [packetOf s.params s.link.seqCtr t], seqCtr := s.link.seqCtr + 1 } }.reply .accepted

/-- On an open link with an unbounded queue an acceptable template is accepted (R322, R325). -/
theorem enqueue_of_acceptable {t : Template} {s : State} (hrun : running s = true) (hdepth : s.params.qDepth = none)
    (hacc : acceptable s.link.cfg t = true) : enqueue t s = enqueued t s := by
  obtain ⟨hkind, hlen⟩ := (acceptable_iff s.link.cfg t).1 hacc
  have hroom : ¬ s.params.qDepth = some s.link.qOut.length := by simp [hdepth]
  rw [enqueue_eq_ite, if_neg ((running_iff s).1 hrun), if_neg hkind, if_neg hlen, if_neg hroom, enqueued]

/-- The numbers from `c` on, one for each of `n` packets, modulo 256 (R326). -/
def numbersFrom (c : BitVec 8) (n : Nat) : List (BitVec 8) := (List.range n).map fun k => c + BitVec.ofNat 8 k

theorem numbersFrom_succ (c : BitVec 8) (n : Nat) : numbersFrom c (n + 1) = c :: numbersFrom (c + 1) n := by
  have hstep : ∀ k, c + BitVec.ofNat 8 (k + 1) = c + 1 + BitVec.ofNat 8 k := fun k => by
    rw [Nat.add_comm, BitVec.ofNat_add]
    exact (BitVec.add_assoc _ _ _).symm
  have htail := List.map_congr_left (l := List.range n) fun k _ => hstep k
  rw [numbersFrom, List.range_succ_eq_map, List.map_cons, List.map_map, numbersFrom, ← htail]
  exact congrArg (· :: _) (BitVec.add_zero c)

/-- Accepted ENQUEUEs in a row take consecutive numbers, and the counter ends behind the last (R326). -/
theorem foldl_enqueue_numbers (ts : List Template) {s : State} (hrun : running s = true) (hdepth : s.params.qDepth = none)
    (hacc : ∀ t ∈ ts, acceptable s.link.cfg t = true) :
    (ts.foldl (fun s t => enqueue t s) s).link.qOut.map (·.seq) =
      s.link.qOut.map (·.seq) ++ numbersFrom s.link.seqCtr ts.length ∧
    (ts.foldl (fun s t => enqueue t s) s).link.seqCtr = s.link.seqCtr + BitVec.ofNat 8 ts.length := by
  induction ts generalizing s with
  | nil => simp [numbersFrom]
  | cons t ts ih =>
    obtain ⟨hqOut, hctr⟩ := ih (s := enqueued t s) hrun hdepth fun x hx => hacc x (.tail t hx)
    have hseq : (packetOf s.params s.link.seqCtr t).seq = s.link.seqCtr := rfl
    rw [List.foldl_cons, enqueue_of_acceptable hrun hdepth (hacc t (.head ts)), hqOut, hctr, List.length_cons, numbersFrom_succ]
    refine ⟨by simp [enqueued, hseq], ?_⟩
    rw [Nat.add_comm, BitVec.ofNat_add, ← BitVec.add_assoc]
    rfl

/-- Settles O30: the counter advances by one for each, and 256 is 0 modulo 256. -/
theorem sequenceNumbersWrap : Obligations.SequenceNumbersWrap := by
  unfold Obligations.SequenceNumbersWrap
  intro ts s hrun hdepth hacc s'
  obtain ⟨hqOut, hctr⟩ := foldl_enqueue_numbers ts hrun hdepth hacc
  refine ⟨hqOut, fun hwrap => hctr.trans ?_⟩
  rw [hwrap]
  exact BitVec.add_zero _

/-! ### The register rows -/

section RegisterRow

variable {i : Instr} {s : State} {r : CfgReg} {v : Nat}

theorem exec_row_refused (hrun : running s = true) (hexec : exec i s = .next (setConfig (numberOf r) v s))
    (hillegal : ¬ legalValue s.params r v = true) : exec i s = .next (s.refuse .badValue) := by
  rw [hexec, setConfig_of_not_legal hrun hillegal]

/-- A row with a legal value writes its register on an idle link, and is held on any other (R330, R332). -/
theorem exec_row_accepted (hrun : running s = true) (hexec : exec i s = .next (setConfig (numberOf r) v s))
    (hlegal : legalValue s.params r v = true) {written : LinkConfig} (hwritten : writeReg s.link.cfg r v = written) :
    (s.link.sendState = .idle ∧ s.link.rxBuf = [] →
      exec i s = .next { s with link := { s.link with cfg := written }, replies := s.replies ++ [.accepted] }) ∧
    (¬ (s.link.sendState = .idle ∧ s.link.rxBuf = []) →
      exec i s =
        .next { s with link := { s.link with pending := s.link.pending ++ [(r, v)] }, replies := s.replies ++ [.accepted] }) := by
  rw [hexec, setConfig_of_legal hrun hlegal, State.mapLink, ← hwritten]
  exact ⟨fun hidle => by rw [setOrHold_of_idle r v hidle]; rfl, fun hbusy => by rw [setOrHold_of_not_idle r v hbusy]; rfl⟩

end RegisterRow

/-- Settles O32: each row is its register's SET_CONFIG, whose legal values are tested in turn. -/
theorem registerRowsWriteTheirRegister : Obligations.RegisterRowsWriteTheirRegister := by
  unfold Obligations.RegisterRowsWriteTheirRegister
  intro s
  refine ⟨fun hclosed => ?_, fun hrun => ?_⟩
  · have hrefused : ∀ reg v, exec (.setConfig reg v) s = .next (s.refuse .notOpen) := fun reg v => by
      rw [exec_setConfig, setConfig_of_notAccepting reg v hclosed]
    exact ⟨fun v => hrefused 0 _, fun v => hrefused 1 _, fun v => hrefused 2 _, fun v => hrefused 3 _, fun v => hrefused 4 _,
      fun v => hrefused 5 _, fun v => hrefused 6 _, hrefused 7 _⟩
  · intro c fits refused accepted
    have htime : ∀ v, legalTime s.params v = true ↔ fits v := legalTime_iff s.params
    refine ⟨?_, fun v => ?_, fun v hv => ?_, fun v hv => ?_, fun v hv => ?_, fun v hv => ?_, fun v hv => ?_, fun v hv => ?_,
      fun v hv => ?_, fun v hv => ?_, fun v hv => ?_, fun v hv => ?_, fun v => ?_⟩
    · exact congrArg Host.Outcome.next (setConfig_seven hrun 0)
    · exact exec_row_accepted (r := .localAddr) hrun rfl (decide_eq_true (Nat.le_of_lt_succ v.isLt)) (by simp [writeReg, c])
    · exact exec_row_accepted (r := .ackTimeout) hrun rfl ((htime v).2 hv) rfl
    · exact exec_row_refused (r := .ackTimeout) hrun rfl (mt (htime v).1 hv)
    · exact exec_row_accepted (r := .respTimeout) hrun rfl ((htime v).2 hv) rfl
    · exact exec_row_refused (r := .respTimeout) hrun rfl (mt (htime v).1 hv)
    · exact exec_row_accepted (r := .maxRetx) hrun rfl (decide_eq_true hv) (by simp [writeReg, c])
    · exact exec_row_refused (r := .maxRetx) hrun rfl (by simpa [legalValue] using hv)
    · exact exec_row_accepted (r := .idleDelay) hrun rfl ((htime v).2 hv) rfl
    · exact exec_row_refused (r := .idleDelay) hrun rfl (mt (htime v).1 hv)
    · have hbound : v.toNat ≤ 65535 := Nat.le_of_lt_succ v.isLt
      exact exec_row_accepted (r := .maxFrame) hrun rfl (by simp [legalValue, hv, hbound]) (by simp [writeReg, c])
    · exact exec_row_refused (r := .maxFrame) hrun rfl (by simp [legalValue]; omega)
    · exact exec_row_accepted (r := .workerPriority) hrun rfl rfl rfl

/-! ### A step -/

/-- A step runs the first transaction, in its environment (log 1). -/
theorem step_of_cons {s : State} {t : Transaction} {rest : List Transaction} (h : s.inputs = t :: rest) :
    step s = runTransaction t (takeInput t rest s) := by
  rw [step, stepOnce, h]

/-- Settles O50: the first transaction's bytes are decoded at its level. -/
theorem stepRunsTheDecodedInstruction : Obligations.StepRunsTheDecodedInstruction := by
  unfold Obligations.StepRunsTheDecodedInstruction
  intro s t rest i bs hinputs hdecode
  rw [step_of_cons hinputs, runTransaction, hdecode, takeInput]

/-- A code outside the table is no operation (R123). -/
theorem decodeOperation_of_unknown {op : Byte}
    (h : op ∉ ([0x01, 0x02, 0x03, 0x04, 0x05, 0x06, 0x10, 0x11, 0x12, 0x13, 0x14] : List Byte)) (bs : List Byte) :
    decodeOperation (op :: bs) = .error (.badOp op) := by
  simp only [List.mem_cons, List.not_mem_nil, or_false, not_or] at h
  simp only [decodeOperation, h, if_false]

/-- Settles O51: the decoder names the code, and the block refuses it. -/
theorem unknownOperationCodeIsRefused : Obligations.UnknownOperationCodeIsRefused := by
  unfold Obligations.UnknownOperationCodeIsRefused
  intro s t rest op bs hinputs hlevel hbytes hop
  have hdecode : decodeAt t.level t.bytes = .error (.badOp op) := by
    rw [hlevel, hbytes]
    exact decodeOperation_of_unknown hop bs
  rw [step_of_cons hinputs, runTransaction, hdecode, takeInput]
  rfl

/-! ### What reset detection and the CRC stamp leave alone -/

theorem detectReset_qOut (p : Params) (x : Packet) (l : Link) : (detectReset p x l).qOut = l.qOut := by
  unfold detectReset
  split <;> rfl

theorem detectReset_sendState (p : Params) (x : Packet) (l : Link) : (detectReset p x l).sendState = l.sendState := by
  unfold detectReset
  split <;> rfl

theorem detectReset_requestOpen (p : Params) (x : Packet) (l : Link) : (detectReset p x l).requestOpen = l.requestOpen := by
  unfold detectReset
  split <;> rfl

theorem stampHead_sendState (l : Link) : (stampHead l).sendState = l.sendState := by
  unfold stampHead
  split <;> rfl

theorem stampHead_stalled (l : Link) : (stampHead l).stalled = l.stalled := by
  unfold stampHead
  split <;> rfl

theorem stampHead_qOut_of_cons {l : Link} {x : Packet} {q : List Packet} (h : l.qOut = x :: q) :
    (stampHead l).qOut = withCrc x :: q := by
  rw [stampHead, h]

/-! ### The invariant at its start -/

/-- A link just opened holds nothing, and its registers are in range (R59). -/
theorem linkInv_afterOpen (p : Params) (a : Byte) (x y z : Nat) : LinkInv p (Link.afterOpen a x y z) where
  rxForm := .inl rfl
  rxBound := Nat.zero_le _
  singleFlight _ h := absurd rfl h
  awaitsMessage _ h := nomatch h
  awaitsRequest _ h := nomatch h
  outKinds _ h := nomatch h
  ackKinds _ h := nomatch h
  dataKinds _ h := nomatch h
  rawForms _ h := nomatch h
  idleCounters _ := ⟨rfl, rfl⟩
  counters := ⟨(by decide : (0 : BitVec 8) ≤ 3), (by decide : (0 : BitVec 8) ≤ 3)⟩
  cfgLegal := ⟨(by decide : (3 : BitVec 8).toNat ≤ 254), (by decide : 12 ≤ (256 : Word16).toNat)⟩
  pendingLegal _ h := nomatch h
  depth d _ := ⟨Nat.zero_le d, Nat.zero_le d, Nat.zero_le d, Nat.zero_le d⟩

/-- Settles O54: no link exists at reset, and one that OPEN creates is empty. -/
theorem openedLinkMeetsTheInvariant : Obligations.OpenedLinkMeetsTheInvariant := by
  unfold Obligations.OpenedLinkMeetsTheInvariant
  exact ⟨fun hopen => (nomatch hopen), linkInv_afterOpen⟩

end Sys2Proof.Machine

namespace Sys2Proof.Safety
open Sys2Proof Sys2Proof.Machine

/-! ### The worker's writes keep the link's invariant -/

section LinkWrites

variable {p : Params} {l : Link}

/-- A worker that comes to stand still weakens the invariant; it never starts again (log 11). -/
theorem setStalled_keeps_inv {b : Bool} (h : LinkInv p l) (hb : b = false → l.stalled = false) :
    LinkInv p { l with stalled := b } :=
  { h with
    singleFlight := fun hr => h.singleFlight (hb hr)
    awaitsMessage := fun hr => h.awaitsMessage (hb hr)
    awaitsRequest := fun hr => h.awaitsRequest (hb hr) }

theorem queueAck_keeps_inv (x : Packet) (h : LinkInv p l) : LinkInv p (queueAck p x l) :=
  enq_out_keeps_inv (ackFor p l.cfg.localAddr x) h (outgoing_ackFor p l.cfg.localAddr x)

theorem recordDelivery_keeps_inv (now : Nat) (x : Packet) (h : LinkInv p l) : LinkInv p (recordDelivery now x l) := by
  unfold recordDelivery
  split <;> exact { h with }

theorem detectReset_keeps_inv (x : Packet) (h : LinkInv p l) : LinkInv p (detectReset p x l) := by
  unfold detectReset
  split
  · exact { h with }
  · exact h

theorem takeData_keeps_inv {x : Packet} {rest : List Packet} (h : LinkInv p l) (hq : l.qData = x :: rest) :
    LinkInv p { l with qData := rest } := by
  refine { h with dataKinds := fun y hy => h.dataKinds y (hq ▸ .tail x hy), depth := fun d hd => ?_ }
  obtain ⟨hout, hdata, hack, hraw⟩ := h.depth d hd
  rw [hq, List.length_cons] at hdata
  exact ⟨hout, by dsimp only; omega, hack, hraw⟩

/-- What the scan of `Q_ACK` leaves: an end part of the queue, and a worker that may stand still (R280). -/
theorem scanned_keeps_inv {taken rest : List Packet} {b : Bool} (h : LinkInv p l) (hq : l.qAck = taken ++ rest)
    (hgo : l.stalled = false) : LinkInv p { l with qAck := rest, stalled := b } := by
  have hs := setStalled_keeps_inv h fun (_ : b = false) => hgo
  refine { hs with ackKinds := fun y hy => h.ackKinds y (by simp [hq, hy]), depth := fun d hd => ?_ }
  obtain ⟨hout, hdata, hack, hraw⟩ := h.depth d hd
  rw [hq, List.length_append] at hack
  exact ⟨hout, hdata, by dsimp only; omega, hraw⟩

/-- The computed CRC changes neither the kind of a packet nor that ENCODE is defined on it (R192, D53). -/
theorem outgoing_withCrc (x : Packet) : outgoing (withCrc x) = outgoing x := by
  unfold withCrc
  split
  · next hk => simp [outgoing, unstuffed, hk]
  · rfl

theorem stampHead_keeps_inv (h : LinkInv p l) : LinkInv p (stampHead l) := by
  unfold stampHead
  split
  · exact h
  · next x q hq =>
    refine { h with
      singleFlight := fun _ _ => List.cons_ne_nil _ _
      awaitsMessage := fun hr hs y hy => ?_, awaitsRequest := fun hr hs y hy => ?_, outKinds := fun y hy => ?_
      depth := by simpa [hq] using h.depth }
    · obtain rfl : withCrc x = y := by simpa using hy
      rw [withCrc_kind]
      exact h.awaitsMessage hr hs x (by simp [hq])
    · obtain rfl : withCrc x = y := by simpa using hy
      rw [withCrc_kind]
      exact h.awaitsRequest hr hs x (by simp [hq])
    · rcases List.mem_cons.1 hy with rfl | hy
      · rw [outgoing_withCrc]
        exact h.outKinds x (by simp [hq])
      · exact h.outKinds y (by simp [hq, hy])

/-- The head has left and the state is Idle, whether or not the worker stands still (R290). -/
theorem popped_idle_keeps_inv (b : Bool) (h : LinkInv p l) : LinkInv p { goto .idle (popHead l) with stalled := b } :=
  { popHead_keeps_inv h with
    singleFlight := fun _ hs => absurd rfl hs
    awaitsMessage := fun _ hs => nomatch hs
    awaitsRequest := fun _ hs => nomatch hs }

/-- The head has left and the worker stands still before it could go to Idle (R290, log 11). -/
theorem popped_stalled_keeps_inv {b : Bool} (h : LinkInv p l) (hb : b = true) :
    LinkInv p { popHead l with stalled := b } :=
  { popHead_keeps_inv h with
    singleFlight := fun hr => absurd hb (Bool.eq_false_iff.1 hr)
    awaitsMessage := fun hr => absurd hb (Bool.eq_false_iff.1 hr)
    awaitsRequest := fun hr => absurd hb (Bool.eq_false_iff.1 hr)
    idleCounters := fun _ => ⟨rfl, rfl⟩ }

/-- The state changes while the packet in flight stays in flight (R57). -/
theorem goto_sending_keeps_inv (h : LinkInv p l) (hq : l.qOut ≠ []) : LinkInv p (goto .sending l) :=
  { h with
    singleFlight := fun _ _ => hq
    awaitsMessage := fun _ hs => nomatch hs
    awaitsRequest := fun _ hs => nomatch hs
    idleCounters := fun hs => nomatch hs }

end LinkWrites

theorem zero_le_byte (c : BitVec 8) : 0 ≤ c := BitVec.le_def.2 (Nat.zero_le _)

/-- A counter of a packet in flight may be written, within `MAX_RETX` (R33, R34). -/
theorem setCounters_keeps_inv {p : Params} {l : Link} {a n : BitVec 8} (h : LinkInv p l) (hbusy : l.sendState ≠ .idle)
    (ha : a ≤ l.cfg.maxRetx) (hn : n ≤ l.cfg.maxRetx) : LinkInv p { l with ackToCnt := a, nackCnt := n } :=
  { h with counters := ⟨ha, hn⟩, idleCounters := fun hs => absurd hs hbusy }

/-- Every packet `Q_OUT` may hold is in ENCODE's domain (R58, R195). -/
theorem unstuffed_of_outgoing {x : Packet} (hx : outgoing x = true) : ∃ u, unstuffed x = some u := by
  rw [outgoing, Bool.and_eq_true] at hx
  exact Option.isSome_iff_exists.1 hx.2

/-- What ENCODE is defined on, but for control packets, is of a message kind (R195). -/
theorem isMessage_of_outgoing {x : Packet} (hx : outgoing x = true) (hc : ¬ isControl x.kind = true) :
    isMessage x.kind = true := by
  obtain ⟨u, hu⟩ := unstuffed_of_outgoing hx
  rcases unstuffed_cases hu with ⟨hm, -⟩ | ⟨-, hctl, -⟩
  · exact hm
  · exact absurd hctl hc

theorem encodePacket_of_outgoing {x : Packet} (hx : outgoing x = true) : ∃ w, encodePacket x = some w := by
  obtain ⟨u, hu⟩ := unstuffed_of_outgoing hx
  exact ⟨wireForm u, by rw [encodePacket, hu]; rfl⟩

/-! ### The worker's operations keep it -/

section Operations

variable {s : State}

theorem fire_keeps_inv (e : Event) (h : LinkInv s.params s.link) : LinkInv s.params (s.fire e).link :=
  setStalled_keeps_inv h fun hb => (Bool.or_eq_false_iff.1 hb).1

theorem unlessStalled_keeps_inv {p : Params} {f : State → State} (hstill : s.link.stalled = true → LinkInv p s.link)
    (hgo : s.link.stalled = false → LinkInv p (f s).link) : LinkInv p (unlessStalled f s).link := by
  rcases unlessStalled_cases f s with ⟨hb, e⟩ | ⟨hb, e⟩ <;> rw [e]
  · exact hstill hb
  · exact hgo hb

/-- The end of a packet, from counters that may already be past their bound: they are cleared with it (R290, R375). -/
theorem terminate_keeps_inv {p : Params} {l : Link} (e : Event) (h : LinkInv p l) (hpop : popHead s.link = popHead l) :
    LinkInv p (terminate e s).link := by
  refine unlessStalled_keeps_inv (fun hb => ?_) fun _ => ?_
  · simp only [State.mapLink_link, State.fire_link, hpop] at hb ⊢
    exact popped_stalled_keeps_inv h hb
  · simp only [State.mapLink_link, State.fire_link, hpop]
    exact popped_idle_keeps_inv _ h

theorem answerSent_keeps_inv (x : Packet) (h : LinkInv s.params s.link) : LinkInv s.params (answerSent x s).link := by
  exact unlessStalled_keeps_inv (fun hb => popped_stalled_keeps_inv h hb) fun _ => { popped_idle_keeps_inv _ h with }

theorem phase1_keeps_inv (h : LinkInv s.params s.link) : LinkInv s.params (phase1 s).link := drainRaw_keeps_inv h

theorem startTick_keeps_inv (now : Nat) (h : LinkInv s.params s.link) : LinkInv s.params (startTick now s).link :=
  applyHeld_keeps_inv { h with }

theorem handleIncoming_keeps_inv (now : Nat) (x : Packet) (h : LinkInv s.params s.link) :
    LinkInv s.params (handleIncoming now x s).link := by
  unfold handleIncoming
  split
  · split
    · exact fire_keeps_inv (s := s.mapLink _) _ { detectReset_keeps_inv x h with }
    · have hacked := queueAck_keeps_inv x h
      unfold independentPath
      split
      · exact hacked
      · unfold deliver
        split
        · exact hacked
        · exact fire_keeps_inv (s := (s.mapLink (queueAck s.params x)).mapLink (recordDelivery now x)) _
            (recordDelivery_keeps_inv now x hacked)
  · exact h

theorem phase2_keeps_inv (now : Nat) (h : LinkInv s.params s.link) : LinkInv s.params (phase2 now s).link := by
  cases hq : s.link.qData with
  | nil => rwa [phase2_of_nil now hq]
  | cons x rest =>
    rw [phase2_of_cons now hq]
    exact handleIncoming_keeps_inv (s := takeData rest s) now x (takeData_keeps_inv h hq)

/-- After the write the head is done with, or its ack is waited for (R276, R277). -/
theorem dispose_keeps_inv (now : Nat) {x : Packet} (h : LinkInv s.params s.link) (hhead : s.link.qOut.head? = some x) :
    LinkInv s.params (dispose now x s).link := by
  unfold dispose
  split
  · exact popHead_keeps_inv h
  · next hctl =>
    split
    · exact answerSent_keeps_inv x h
    · have hmem : x ∈ s.link.qOut := List.mem_of_head? hhead
      exact { h with
        singleFlight := fun _ _ => List.ne_nil_of_mem hmem
        awaitsMessage := fun _ _ y hy => by
          obtain rfl : x = y := Option.some.inj (hhead.symm.trans hy)
          exact isMessage_of_outgoing (h.outKinds x hmem) hctl
        awaitsRequest := fun _ hs => nomatch hs
        idleCounters := fun hs => nomatch hs }

/-- The head stands in its place during the whole write, so what follows disposes of the packet written (R89). -/
theorem transmit_keeps_inv (now : Nat) {x : Packet} {q : List Packet} (w : List Byte) (hopen : s.linkOpen = true)
    (h : LinkInv s.params s.link) (hq : s.link.qOut = x :: q) : LinkInv s.params (transmit now (withCrc x) w s).link := by
  have hstamped : LinkInv s.params (writeHead w s).link := stampHead_keeps_inv h
  have hqOut : (writeHead w s).link.qOut = withCrc x :: q := stampHead_qOut_of_cons hq
  unfold transmit
  split
  · let m : State := runAgents s.env.gaps.duringWrite (writeHead w s)
    have hframe : AgentFrame (writeHead w s) m := runAgents_frame _ _ hopen
    have hm : LinkInv m.params m.link := by
      rw [hframe.params]
      exact runAgents_keeps_inv _ (writeHead w s) hopen hstamped
    have hhead : m.link.qOut.head? = some (withCrc x) := by
      rw [hframe.head (hqOut ▸ List.cons_ne_nil _ _), hqOut, List.head?_cons]
    have hparams : m.params = s.params := hframe.params
    have hfired : LinkInv m.params (m.fire (.onRawBytesSent w)).link := fire_keeps_inv _ hm
    rw [← hparams]
    exact unlessStalled_keeps_inv (fun _ => hfired) fun _ =>
      dispose_keeps_inv (s := m.fire (.onRawBytesSent w)) now hfired hhead
  · exact runAgents_keeps_inv _ ((writeHead w s).mapLink stall) hopen
      (setStalled_keeps_inv hstamped fun hb => nomatch hb)

/-- Sending completes: everything in `Q_OUT` can be encoded (R58, R195). -/
theorem sendingAction_completes (now : Nat) {x : Packet} {q : List Packet} (hopen : s.linkOpen = true)
    (h : LinkInv s.params s.link) (hq : s.link.qOut = x :: q) :
    ∃ t, sendingAction now x s = .next t ∧ LinkInv s.params t.link := by
  unfold sendingAction
  split
  · exact ⟨_, rfl, { popHead_keeps_inv h with }⟩
  · obtain ⟨w, hw⟩ := encodePacket_of_outgoing (h.outKinds x (by simp [hq]))
    rw [hw]
    exact ⟨_, rfl, transmit_keeps_inv (s := s.mapLink (detectReset s.params x)) now w hopen (detectReset_keeps_inv x h)
      ((detectReset_qOut s.params x s.link).trans hq)⟩

/-- A link whose ack is waited for, of a worker that runs. -/
structure AwaitsAck (x : Packet) (q : List Packet) (s : State) : Prop where
  inv : LinkInv s.params s.link
  waiting : s.link.sendState = .waitingForAck
  head : s.link.qOut = x :: q

variable {x : Packet} {q : List Packet}

theorem AwaitsAck.busy (h : AwaitsAck x q s) : s.link.sendState ≠ .idle := by simp [h.waiting]

theorem AwaitsAck.inFlight (h : AwaitsAck x q s) : s.link.qOut ≠ [] := by simp [h.head]

theorem onPositiveAck_keeps_inv (h : AwaitsAck x q s) : LinkInv s.params (onPositiveAck x s).link := by
  unfold onPositiveAck
  split
  · next hreq =>
    exact { setCounters_keeps_inv h.inv h.busy (zero_le_byte _) (zero_le_byte _) with
      singleFlight := fun _ _ => h.inFlight
      awaitsMessage := fun _ hs => nomatch hs
      awaitsRequest := fun _ _ y hy => by
        obtain rfl : x = y := by simpa [h.head] using hy
        exact hreq
      idleCounters := fun hs => nomatch hs }
  · exact terminate_keeps_inv _ h.inv rfl

/-- A NegativeAck is counted up to `MAX_RETX`; past it the packet ends (R282). -/
theorem onNegativeAck_keeps_inv (h : AwaitsAck x q s) : LinkInv s.params (onNegativeAck x s).link := by
  unfold onNegativeAck
  split
  · exact terminate_keeps_inv (s := s.mapLink countNack) _ h.inv rfl
  · next hmax =>
    have hle : s.link.nackCnt + 1 ≤ s.link.cfg.maxRetx := BitVec.not_lt.1 (mt (exceedsMax_iff _ _).2 hmax)
    exact goto_sending_keeps_inv (setCounters_keeps_inv h.inv h.busy (zero_le_byte _) hle) h.inFlight

/-- An ack timeout is counted up to `MAX_RETX`; past it the packet ends (R283). -/
theorem retryOrGiveUp_keeps_inv (h : AwaitsAck x q s) : LinkInv s.params (retryOrGiveUp x s).link := by
  unfold retryOrGiveUp
  split
  · exact terminate_keeps_inv (s := s.mapLink countTimeout) _ h.inv rfl
  · next hmax =>
    have hle : s.link.ackToCnt + 1 ≤ s.link.cfg.maxRetx := BitVec.not_lt.1 (mt (exceedsMax_iff _ _).2 hmax)
    exact goto_sending_keeps_inv (setCounters_keeps_inv h.inv h.busy hle h.inv.counters.2) h.inFlight

theorem onAckTimeout_keeps_inv (h : AwaitsAck x q s) : LinkInv s.params (onAckTimeout x s).link := by
  have hfired : AwaitsAck x q (s.fire (.onAckNackObserved true none)) := ⟨fire_keeps_inv _ h.inv, h.waiting, h.head⟩
  exact unlessStalled_keeps_inv (fun _ => hfired.inv) fun _ => retryOrGiveUp_keeps_inv hfired

/-- What follows the scan completes: only acks stand in `Q_ACK` (R58). -/
theorem afterScan_completes (now : Nat) {found : Option Packet} (h : AwaitsAck x q s)
    (hfound : ∀ a ∈ found, isControl a.kind = true) :
    ∃ t, afterScan now x found s = .next t ∧ LinkInv s.params t.link := by
  cases found with
  | none =>
    by_cases he : elapsed s.params now s.link.tSend s.link.cfg.ackTimeout = true
    · exact ⟨_, afterScan_of_elapsed now x he, onAckTimeout_keeps_inv h⟩
    · exact ⟨_, afterScan_of_not_elapsed now x he, h.inv⟩
  | some a =>
    have hk : a.kind = .positiveAck ∨ a.kind = .negativeAck := by simpa [isControl] using hfound a rfl
    rcases hk with hk | hk
    · exact ⟨_, afterScan_of_positiveAck now x hk, onPositiveAck_keeps_inv h⟩
    · exact ⟨_, afterScan_of_negativeAck now x hk, onNegativeAck_keeps_inv h⟩

theorem waitAckAction_completes (now : Nat) (h : AwaitsAck x q s) (hgo : s.link.stalled = false) :
    ∃ t, waitAckAction now x s = .next t ∧ LinkInv s.params t.link := by
  let scan : Option Packet × State := scanAcks x.seq s.link.qAck s
  obtain ⟨⟨taken, rest, b, hq, hlink⟩, hfound⟩ := scanAcks_link x.seq s.link.qAck s rfl
  have hparams : scan.2.params = s.params := (scanAcks_frame x.seq s.link.qAck s).params
  have hscan : AwaitsAck x q scan.2 := by
    refine ⟨?_, by rw [hlink]; exact h.waiting, by rw [hlink]; exact h.head⟩
    rw [hparams, hlink]
    exact scanned_keeps_inv h.inv hq hgo
  unfold waitAckAction handleAcks
  rw [← hparams]
  split
  · exact ⟨_, rfl, hscan.inv⟩
  · exact afterScan_completes now hscan fun a ha => (h.inv.ackKinds a (hfound a ha).1).1

theorem waitResponseAction_keeps_inv (now : Nat) (x : Packet) (h : LinkInv s.params s.link) :
    LinkInv s.params (waitResponseAction now x s).link := by
  unfold waitResponseAction
  split
  · exact { popHead_keeps_inv h with }
  · split
    · exact terminate_keeps_inv _ h rfl
    · exact h

theorem idleAction_keeps_inv (h : LinkInv s.params s.link) : LinkInv s.params (idleAction s).link := by
  unfold idleAction
  split
  · exact h
  · next hq => exact goto_sending_keeps_inv h (mt List.isEmpty_iff.2 hq)

/-- Phase 3 of a worker that runs completes and keeps the invariant, whatever falls inside it (R292). -/
theorem phase3_completes (now : Nat) (hopen : s.linkOpen = true) (hgo : s.link.stalled = false)
    (h : LinkInv s.params s.link) : ∃ t, phase3 now s = .next t ∧ LinkInv s.params t.link := by
  by_cases hidle : s.link.sendState = .idle
  · exact ⟨_, phase3_of_idle now hidle, idleAction_keeps_inv h⟩
  obtain ⟨x, q, hq⟩ := List.exists_cons_of_ne_nil (h.singleFlight hgo hidle)
  cases hs : s.link.sendState with
  | idle => exact absurd hs hidle
  | sending =>
    rw [phase3_of_sending now hs hq]
    exact sendingAction_completes now hopen h hq
  | waitingForAck =>
    rw [phase3_of_waitingForAck now hs hq]
    exact waitAckAction_completes now ⟨h, hs, hq⟩ hgo
  | waitingForResponse => exact ⟨_, phase3_of_waitingForResponse now hs hq, waitResponseAction_keeps_inv now x h⟩

end Operations

end Sys2Proof.Safety

namespace Sys2Proof.Machine
open Sys2Proof Sys2Proof.Safety

/-! ### Phase 2 in one line: the link changes, and at most one handler is called -/

/-- What phase 2 leaves of the link: where the worker stands, its state, and the packet in flight (R57). -/
structure KeepsFlight (l m : Link) : Prop where
  stalled : m.stalled = l.stalled
  sendState : m.sendState = l.sendState
  head : l.qOut ≠ [] → m.qOut.head? = l.qOut.head?

theorem KeepsFlight.refl (l : Link) : KeepsFlight l l := ⟨rfl, rfl, fun _ => rfl⟩

theorem keepsFlight_recordDelivery (now : Nat) (x : Packet) {l m : Link} (h : KeepsFlight l m) :
    KeepsFlight l (recordDelivery now x m) := by
  rw [recordDelivery_eq]
  exact ⟨h.stalled, h.sendState, h.head⟩

theorem keepsFlight_detectReset (p : Params) (x : Packet) (l : Link) : KeepsFlight l (detectReset p x l) :=
  ⟨detectReset_stalled p x l, detectReset_sendState p x l, fun _ => congrArg List.head? (detectReset_qOut p x l)⟩

/-- The decisions of phase 2 are the link's alone; the environment only says whether the one handler it may call returns
(R259 to R266, U13). -/
theorem phase2_cases (now : Nat) (s : State) :
    ∃ l, KeepsFlight s.link l ∧
      ((∀ v, phase2 now { s with env := v } = { s with env := v, link := l }) ∨
        ∃ e, ∀ v, phase2 now { s with env := v } = ({ s with env := v, link := l } : State).fire e) := by
  cases hq : s.link.qData with
  | nil => exact ⟨s.link, .refl _, .inl fun v => phase2_of_nil (s := { s with env := v }) now hq⟩
  | cons p rest =>
    let l : Link := { s.link with qData := rest }
    have hstep : ∀ v, phase2 now { s with env := v } = handleIncoming now p { s with env := v, link := l } :=
      fun v => phase2_of_cons (s := { s with env := v }) now hq
    by_cases hdst : p.dst = s.link.cfg.localAddr
    case neg =>
      exact ⟨l, ⟨rfl, rfl, fun _ => rfl⟩, .inl fun v =>
        (hstep v).trans (handleIncoming_of_other (s := { s with env := v, link := l }) now hdst)⟩
    by_cases hpath : takesResponsePath l p = true
    case pos =>
      have hkeep := keepsFlight_detectReset s.params p l
      refine ⟨{ detectReset s.params p l with responseReceived := true }, ⟨hkeep.stalled, hkeep.sendState, hkeep.head⟩,
        .inr ⟨.onPacketReceived p, fun v => ?_⟩⟩
      rw [hstep, handleIncoming_of_answer (s := { s with env := v, link := l }) now hdst hpath]
      rfl
    have hind : ∀ v, phase2 now { s with env := v } = independentPath now p { s with env := v, link := l } := fun v =>
      (hstep v).trans (handleIncoming_of_independent (s := { s with env := v, link := l }) now hdst hpath)
    have hacked : KeepsFlight s.link (queueAck s.params p l) := ⟨rfl, rfl, fun hout => head?_enq hout⟩
    by_cases hsup : p.fail = true ∨ s.link.lastAckSeq = some p.seq
    · exact ⟨queueAck s.params p l, hacked, .inl fun v =>
        (hind v).trans (independentPath_of_suppressed (s := { s with env := v, link := l }) now hsup)⟩
    · obtain ⟨hfail, hnew⟩ := not_or.1 hsup
      refine ⟨recordDelivery now p (queueAck s.params p l), keepsFlight_recordDelivery now p hacked,
        .inr ⟨.onPacketReceived p, fun v => ?_⟩⟩
      have hdup : ¬ isDuplicate (queueAck s.params p l) p = true := fun hd => hnew (of_decide_eq_true hd)
      rw [hind, independentPath, if_neg hfail, deliver, State.mapLink_link, if_neg hdup]
      rfl

/-- In the environment there is, phase 2 changes the link, and then fires one event or none. -/
theorem phase2_eq_or_fire (now : Nat) (s : State) :
    ∃ l, KeepsFlight s.link l ∧
      (phase2 now s = { s with link := l } ∨ ∃ e, phase2 now s = ({ s with link := l } : State).fire e) := by
  obtain ⟨l, hl, hno | ⟨e, hcall⟩⟩ := phase2_cases now s
  · exact ⟨l, hl, .inl (hno s.env)⟩
  · exact ⟨l, hl, .inr ⟨e, hcall s.env⟩⟩

/-! ### What an operation adds to the trace -/

/-- From `s` to `t` the parameters stay, the trace only grows, and what is written is bytes that `W` allows. -/
structure Emits (W : List Byte → Prop) (s t : State) : Prop where
  params : t.params = s.params
  trace : ∃ out, t.trace = s.trace ++ out ∧ ∀ w, Output.write w ∈ out → W w

section Emission

variable {W : List Byte → Prop} {s t u : State}

theorem Emits.of_eq (hp : t.params = s.params) (ht : t.trace = s.trace) : Emits W s t := ⟨hp, [], by simp [ht], by simp⟩

theorem Emits.refl (s : State) : Emits W s s := .of_eq rfl rfl

theorem Emits.trans (h : Emits W s t) (k : Emits W t u) : Emits W s u := by
  obtain ⟨out, ht, hout⟩ := h.trace
  obtain ⟨out', hu, hout'⟩ := k.trace
  refine ⟨k.params.trans h.params, out ++ out', by rw [hu, ht, List.append_assoc], fun w hw => ?_⟩
  exact (List.mem_append.1 hw).elim (hout w) (hout' w)

theorem emits_mapLink (f : Link → Link) (s : State) : Emits W s (s.mapLink f) := .of_eq rfl rfl

/-- One output that is no write (R368, R380). -/
theorem Emits.of_output {o : Output} (ho : ∀ w, o ≠ .write w) (hp : t.params = s.params) (ht : t.trace = s.trace ++ [o]) :
    Emits W s t := ⟨hp, [o], ht, fun w hw => absurd (List.mem_singleton.1 hw).symm (ho w)⟩

theorem emits_fire (e : Event) (s : State) : Emits W s (s.fire e) := .of_output (o := .event e) (fun _ => nofun) rfl rfl

theorem emits_unlessStalled {f : State → State} (h : Emits W s (f s)) : Emits W s (unlessStalled f s) := by
  rcases unlessStalled_cases f s with ⟨-, e⟩ | ⟨-, e⟩ <;> rw [e]
  · exact .refl s
  · exact h

/-! #### The other agents and the host's operations -/

theorem emits_openLink (a : Byte) (s : State) : Emits W s (openLink a s) := by
  by_cases hopen : s.linkOpen = true
  · rw [openLink_of_open a hopen]
    exact .of_eq rfl rfl
  · rw [Bool.not_eq_true] at hopen
    by_cases ht : s.env.transportOpens = true
    · rw [openLink_of_success a hopen ht]
      exact .of_output (o := .transportOpen true) (fun _ => nofun) rfl rfl
    · rw [openLink_of_failure a hopen (by simpa using ht)]
      exact .of_output (o := .transportOpen false) (fun _ => nofun) rfl rfl

theorem emits_agentStep (op : AgentOp) (s : State) : Emits W s (agentStep op s) := by
  cases op with
  | openLink a => exact emits_openLink a s
  | rxByte b =>
    by_cases hopen : s.linkOpen = true
    · exact .of_eq (agentStep_frame _ s hopen).params (agentStep_frame _ s hopen).trace
    · rw [agentStep, receiveByte_of_closed b (by simpa using hopen)]
      exact .of_eq rfl rfl
  | close =>
    by_cases hopen : s.linkOpen = true
    · exact .of_eq (agentStep_frame _ s hopen).params (agentStep_frame _ s hopen).trace
    · rw [agentStep, if_neg hopen]
      exact .of_eq rfl rfl
  | enqueue t =>
    rcases enqueue_cases t s with ⟨r, e⟩ | ⟨-, -, -, -, e⟩ <;> rw [agentStep, e] <;> exact .of_eq rfl rfl
  | setConfig reg v =>
    rcases setConfig_cases reg v s with ⟨r, e⟩ | ⟨-, r, -, -, e⟩ <;> rw [agentStep, e] <;> exact .of_eq rfl rfl

theorem emits_runAgents (ops : List AgentOp) (s : State) : Emits W s (runAgents ops s) := by
  induction ops generalizing s with
  | nil => exact .refl s
  | cons op ops ih => exact (emits_agentStep op s).trans (ih _)

theorem emits_closeRest (s : State) : Emits W s (closeRest s) := by
  refine (emits_runAgents s.env.gaps.duringClose s).trans ?_
  rcases closeEnd_cases (runAgents s.env.gaps.duringClose s) with ⟨-, e⟩ | e <;> rw [closeRest, e]
  · exact .of_eq rfl rfl
  · exact .of_output (o := .transportClose) (fun _ => nofun) rfl rfl

theorem emits_close (s : State) : Emits W s (close s) := by
  unfold close
  split
  · exact (emits_mapLink (fun l => { l with stop := true }) s).trans (emits_closeRest _)
  · exact .of_eq rfl rfl

theorem emits_endTick (s : State) : Emits W s (endTick s) := by
  unfold endTick
  split
  · exact emits_closeRest s
  · exact .refl s

/-! #### The phases of a TICK -/

theorem emits_startTick (now : Nat) (s : State) : Emits W s (startTick now s) := emits_mapLink _ s

theorem emits_phase1 (s : State) : Emits W s (phase1 s) := emits_mapLink _ s

theorem emits_phase2 (now : Nat) (s : State) : Emits W s (phase2 now s) := by
  obtain ⟨l, -, e | ⟨ev, e⟩⟩ := phase2_eq_or_fire now s <;> rw [e]
  · exact .of_eq rfl rfl
  · exact (emits_mapLink (fun _ => l) s).trans (emits_fire _ _)

theorem emits_terminate (e : Event) (s : State) : Emits W s (terminate e s) :=
  ((emits_mapLink popHead s).trans (emits_fire e _)).trans (emits_unlessStalled (emits_mapLink _ _))

theorem emits_dispose (now : Nat) (x : Packet) (s : State) : Emits W s (dispose now x s) := by
  unfold dispose
  split
  · exact .of_eq rfl rfl
  · split
    · exact ((emits_mapLink popHead s).trans (emits_fire _ _)).trans (emits_unlessStalled (emits_mapLink _ _))
    · exact .of_eq rfl rfl

/-- A transmission writes its bytes once, and the steps of other agents during it write nothing (R94, R275). -/
theorem emits_transmit (now : Nat) (x : Packet) {w : List Byte} (hw : W w) (s : State) : Emits W s (transmit now x w s) := by
  have hwrite : Emits W s (writeHead w s) :=
    ⟨rfl, [.write w], rfl, fun w' hw' => by rwa [Output.write.inj (List.mem_singleton.1 hw')]⟩
  unfold transmit
  split
  · exact ((hwrite.trans (emits_runAgents _ _)).trans (emits_fire _ _)).trans (emits_unlessStalled (emits_dispose now x _))
  · exact (hwrite.trans (emits_mapLink stall _)).trans (emits_runAgents _ _)

theorem emits_sendingAction {now : Nat} {x : Packet} (hW : ∀ w, encodePacket x = some w → W w)
    (e : sendingAction now x s = .next t) : Emits W s t := by
  unfold sendingAction at e
  split at e
  · cases e
    exact .of_eq rfl rfl
  · split at e
    · cases e
    · next w hw =>
      cases e
      exact (emits_mapLink (detectReset s.params x) s).trans (emits_transmit now _ (hW w hw) _)

theorem emits_scanAcks (seq : Byte) (q : List Packet) (s : State) : Emits W s (scanAcks seq q s).2 := by
  induction q generalizing s with
  | nil => exact .refl s
  | cons a q ih =>
    have htake : Emits W s (takeAck a q s) := .of_output (o := .event _) (fun _ => nofun) rfl rfl
    unfold scanAcks
    split
    · exact htake
    · split
      · exact htake
      · exact htake.trans (ih _)

theorem emits_onPositiveAck (x : Packet) (s : State) : Emits W s (onPositiveAck x s) := by
  unfold onPositiveAck
  split
  · exact .of_eq rfl rfl
  · exact emits_terminate _ s

theorem emits_onNegativeAck (x : Packet) (s : State) : Emits W s (onNegativeAck x s) := by
  unfold onNegativeAck
  split
  · exact (emits_mapLink countNack s).trans (emits_terminate _ _)
  · exact .of_eq rfl rfl

theorem emits_onAckTimeout (x : Packet) (s : State) : Emits W s (onAckTimeout x s) := by
  refine (emits_fire _ s).trans (emits_unlessStalled ?_)
  unfold retryOrGiveUp
  split
  · exact (emits_mapLink countTimeout _).trans (emits_terminate _ _)
  · exact .of_eq rfl rfl

theorem emits_waitAckAction {now : Nat} {x : Packet} (e : waitAckAction now x s = .next t) : Emits W s t := by
  have hscan : Emits W s (scanAcks x.seq s.link.qAck s).2 := emits_scanAcks _ _ s
  unfold waitAckAction handleAcks at e
  split at e
  · cases e
    exact hscan
  · refine hscan.trans ?_
    unfold afterScan at e
    repeat' split at e
    all_goals cases e
    · exact emits_onPositiveAck x _
    · exact emits_onNegativeAck x _
    · exact emits_onAckTimeout x _
    · exact .refl _

theorem emits_waitResponseAction (now : Nat) (x : Packet) (s : State) : Emits W s (waitResponseAction now x s) := by
  unfold waitResponseAction
  split
  · exact .of_eq rfl rfl
  · split
    · exact emits_terminate _ s
    · exact .refl s

/-- Phase 3 writes in Sending only, and only the wire form of the head (R57, R275). -/
theorem emits_phase3 {now : Nat}
    (hW : s.link.sendState = .sending → ∀ x ∈ s.link.qOut.head?, ∀ w, encodePacket x = some w → W w)
    (e : phase3 now s = .next t) : Emits W s t := by
  cases hs : s.link.sendState with
  | idle =>
    rw [phase3_of_idle now hs] at e
    cases e
    unfold idleAction
    split <;> exact .of_eq rfl rfl
  | sending =>
    simp only [phase3, hs, withHead] at e
    split at e
    · cases e
    · next x q hq => exact emits_sendingAction (hW hs x (by simp [hq])) e
  | waitingForAck =>
    simp only [phase3, hs] at e
    obtain ⟨x, -, e⟩ := withHead_next e
    exact emits_waitAckAction e
  | waitingForResponse =>
    simp only [phase3, hs] at e
    obtain ⟨x, -, e⟩ := withHead_next e
    cases e
    exact emits_waitResponseAction now x s

end Emission

/-! ### A TICK up to its phase 3 -/

/-- A TICK of a worker that runs up to its phase 3, the steps of other agents before it included (R88, R250). -/
def upToPhase3 (now : Nat) (s : State) : State :=
  runAgents s.env.gaps.beforePhase3
    (phase2 now (runAgents s.env.gaps.beforePhase2 (phase1 (runAgents s.env.gaps.beforePhase1 (startTick now s)))))

/-- What a part of a TICK before phase 3 leaves alone, other agents' steps or the worker's. -/
structure EarlyFrame (s t : State) : Prop where
  linkOpen : t.linkOpen = s.linkOpen
  params : t.params = s.params
  gaps : t.env.gaps = s.env.gaps
  sendState : t.link.sendState = s.link.sendState
  head : s.link.qOut ≠ [] → t.link.qOut.head? = s.link.qOut.head?

theorem EarlyFrame.trans {s t u : State} (h : EarlyFrame s t) (k : EarlyFrame t u) : EarlyFrame s u := by
  refine ⟨k.linkOpen.trans h.linkOpen, k.params.trans h.params, k.gaps.trans h.gaps, k.sendState.trans h.sendState,
    fun hq => ?_⟩
  have ht : t.link.qOut ≠ [] := fun hnil => hq (List.head?_eq_none_iff.1 (by rw [← h.head hq, hnil]; rfl))
  exact (k.head ht).trans (h.head hq)

theorem AgentFrame.early {s t : State} (h : AgentFrame s t) : EarlyFrame s t :=
  ⟨h.linkOpen, h.params, congrArg Env.gaps h.env, h.sendState, h.head⟩

theorem earlyFrame_startTick (now : Nat) (s : State) : EarlyFrame s (startTick now s) := by
  obtain ⟨hopen, henv, hparams, -, -, -, -, hqOut, hsend, -⟩ := startTick_frame now s
  exact ⟨hopen, hparams, congrArg Env.gaps henv, hsend, fun _ => congrArg List.head? hqOut⟩

theorem earlyFrame_phase1 (s : State) : EarlyFrame s (phase1 s) := by
  rw [phase1_eq_foldl_classify, State.mapLink, foldl_classify]
  exact ⟨rfl, rfl, rfl, rfl, fun _ => rfl⟩

theorem earlyFrame_phase2 (now : Nat) (s : State) : EarlyFrame s (phase2 now s) := by
  obtain ⟨l, hl, e | ⟨ev, e⟩⟩ := phase2_eq_or_fire now s <;> rw [e] <;> exact ⟨rfl, rfl, rfl, hl.sendState, hl.head⟩

theorem earlyFrame_runAgents (ops : List AgentOp) {s : State} (hopen : s.linkOpen = true) : EarlyFrame s (runAgents ops s) :=
  (runAgents_frame ops s hopen).early

theorem emits_upToPhase3 (now : Nat) (s : State) {W : List Byte → Prop} : Emits W s (upToPhase3 now s) := by
  have hbefore1 : Emits W s _ := (emits_startTick now s).trans (emits_runAgents s.env.gaps.beforePhase1 _)
  have hbefore2 : Emits W s _ := (hbefore1.trans (emits_phase1 _)).trans (emits_runAgents s.env.gaps.beforePhase2 _)
  exact (hbefore2.trans (emits_phase2 now _)).trans (emits_runAgents _ _)

section UpToPhase3

variable (now : Nat) {s : State} (hopen : s.linkOpen = true)

include hopen

theorem earlyFrame_beforePhase2 :
    EarlyFrame s (runAgents s.env.gaps.beforePhase2 (phase1 (runAgents s.env.gaps.beforePhase1 (startTick now s)))) := by
  have h1 := (earlyFrame_startTick now s).trans (earlyFrame_runAgents s.env.gaps.beforePhase1 (s := startTick now s) hopen)
  have h2 := h1.trans (earlyFrame_phase1 _)
  exact h2.trans (earlyFrame_runAgents _ (h2.linkOpen.trans hopen))

/-- Until phase 3 the state machine stands still, and the packet in flight stays in flight (R57). -/
theorem earlyFrame_upToPhase3 : EarlyFrame s (upToPhase3 now s) := by
  have h := (earlyFrame_beforePhase2 now hopen).trans (earlyFrame_phase2 now _)
  exact h.trans (earlyFrame_runAgents _ (h.linkOpen.trans hopen))

/-- A TICK of a worker that runs is what comes before phase 3, then phase 3 unless the worker has come to stand still (R250). -/
theorem runTick_eq : runTick now s = tickPhase3 now (upToPhase3 now s) := by
  have hgaps := ((earlyFrame_beforePhase2 now hopen).trans (earlyFrame_phase2 now _)).gaps
  rw [runTick, afterPhase2, hgaps, upToPhase3]

/-- Everything before phase 3 keeps the invariant. -/
theorem upToPhase3_keeps_inv (h : LinkInv s.params s.link) : LinkInv s.params (upToPhase3 now s).link := by
  let a : State := runAgents s.env.gaps.beforePhase1 (startTick now s)
  let b : State := runAgents s.env.gaps.beforePhase2 (phase1 a)
  have hpstart : (startTick now s).params = s.params := rfl
  have ha : EarlyFrame s a := (earlyFrame_startTick now s).trans (earlyFrame_runAgents _ (s := startTick now s) hopen)
  have hb : EarlyFrame s b := earlyFrame_beforePhase2 now hopen
  have hc : EarlyFrame s (phase2 now b) := hb.trans (earlyFrame_phase2 now b)
  have hia : LinkInv a.params a.link := by
    rw [ha.params]
    exact runAgents_keeps_inv _ (startTick now s) hopen (startTick_keeps_inv now h)
  have hib : LinkInv b.params b.link := by
    rw [hb.params, ← ha.params]
    exact runAgents_keeps_inv _ (phase1 a) (ha.linkOpen.trans hopen) (phase1_keeps_inv hia)
  have hic : LinkInv (phase2 now b).params (phase2 now b).link := by
    rw [hc.params, ← hb.params]
    exact phase2_keeps_inv now hib
  rw [← hc.params]
  exact runAgents_keeps_inv _ (phase2 now b) (hc.linkOpen.trans hopen) hic

end UpToPhase3

/-- What a TICK can come to: a refusal, nothing, a clock outside the domain, or the phases (R250, R251, R321, U8). -/
theorem exec_tick_cases (now : Nat) (s : State) :
    exec (.tick now) s = .next (s.refuse .notOpen) ∨ exec (.tick now) s = .next s ∨
    (clockBackwards s.params s.link now = true ∧ exec (.tick now) s = .refused .clockBackwards) ∨
    (s.linkOpen = true ∧ s.link.stop = false ∧ s.link.stalled = false ∧ exec (.tick now) s =
      tickPhase3 (timeOf s.params now) (upToPhase3 (timeOf s.params now) s)) := by
  rw [exec_tick, execTick]
  split
  · exact .inl rfl
  · next hopen =>
    have hopen : s.linkOpen = true := by simpa using hopen
    split
    · exact .inr (.inl rfl)
    · next hstop =>
      obtain ⟨hstop, hgo⟩ : s.link.stop = false ∧ s.link.stalled = false := by simpa using hstop
      split
      · next hclock => exact .inr (.inr (.inl ⟨hclock, rfl⟩))
      · exact .inr (.inr (.inr ⟨hopen, hstop, hgo, runTick_eq _ hopen⟩))

/-- A TICK that completes past its start ended before phase 3 or with it, and then the TICK itself ended (R250, R327). -/
theorem tickPhase3_next {now : Nat} {s t : State} (h : tickPhase3 now s = .next t) :
    ∃ d, t = endTick d ∧ (d = s ∨ s.link.stalled = false ∧ phase3 now s = .next d) := by
  unfold tickPhase3 at h
  split at h
  · cases h
    exact ⟨s, rfl, .inl rfl⟩
  · next hgo =>
    obtain ⟨d, hd, hend⟩ := andThen_next h
    cases hend
    exact ⟨d, rfl, .inr ⟨by simpa using hgo, hd⟩⟩

/-! ### Every instruction -/

/-- What an instruction can be: a TICK, steps of the host or the receive path, a CLOSE, a pure unit's reply, or a refusal. -/
theorem exec_cases (i : Instr) (s : State) :
    (∃ now, i = .tick now) ∨ (∃ ops, exec i s = .next (runAgents ops s)) ∨ exec i s = .next (close s) ∨
    (∃ r, exec i s = .next (s.reply r)) ∨ ∃ r, exec i s = .refused r := by
  cases i with
  | tick now => exact .inl ⟨now, rfl⟩
  | close => exact .inr (.inr (.inl rfl))
  | openLink a => exact .inr (.inl ⟨[.openLink a], rfl⟩)
  | enqueue t => exact .inr (.inl ⟨[.enqueue t], rfl⟩)
  | setConfig reg v => exact .inr (.inl ⟨[.setConfig reg v], rfl⟩)
  | rxByte b => exact .inr (.inl ⟨[.rxByte b], rfl⟩)
  | setLocalAddr v => exact .inr (.inl ⟨[.setConfig 0 v.toNat], rfl⟩)
  | setAckTimeout v => exact .inr (.inl ⟨[.setConfig 1 v], rfl⟩)
  | setRespTimeout v => exact .inr (.inl ⟨[.setConfig 2 v], rfl⟩)
  | setMaxRetx v => exact .inr (.inl ⟨[.setConfig 3 v.toNat], rfl⟩)
  | setIdleDelay v => exact .inr (.inl ⟨[.setConfig 4 v], rfl⟩)
  | setMaxFrame v => exact .inr (.inl ⟨[.setConfig 5 v.toNat], rfl⟩)
  | setWorkerPriority v => exact .inr (.inl ⟨[.setConfig 6 v], rfl⟩)
  | setReserved7 => exact .inr (.inl ⟨[.setConfig 7 0], rfl⟩)
  | soh => exact .inr (.inl ⟨[.rxByte sohByte], rfl⟩)
  | eot => exact .inr (.inl ⟨[.rxByte eotByte], rfl⟩)
  | content b => exact .inr (.inl ⟨[.rxByte b], rfl⟩)
  | wire u =>
    refine .inr (.inl ⟨(wireForm u).map .rxByte, ?_⟩)
    rw [exec_wire, runAgents, List.foldl_map]
    rfl
  | crc16 buf n =>
    by_cases hn : n ≤ buf.length
    · exact .inr (.inr (.inr (.inl ⟨_, exec_crc16_of_le hn s⟩)))
    · exact .inr (.inr (.inr (.inr ⟨_, exec_crc16_of_lt (Nat.not_le.1 hn) s⟩)))
  | encode p =>
    cases hu : unstuffed p with
    | some u => exact .inr (.inr (.inr (.inl ⟨_, exec_encode_of_unstuffed hu s⟩)))
    | none => exact .inr (.inr (.inr (.inr ⟨_, exec_encode_of_none hu s⟩)))
  | _ => exact .inr (.inr (.inr (.inl ⟨_, rfl⟩)))

/-- A step waits, runs one instruction, or is about bytes that are none (log 1, log 3). -/
theorem step_cases (s : State) :
    step s = .next s ∨
    ∃ t rest, s.inputs = t :: rest ∧
      ((∃ i, step s = exec i (takeInput t rest s)) ∨ step s = .next ((takeInput t rest s).refuse .badOp) ∨
        ∃ r, step s = .refused r) := by
  cases hinputs : s.inputs with
  | nil => exact .inl (by rw [step, stepOnce, hinputs])
  | cons t rest =>
    refine .inr ⟨t, rest, rfl, ?_⟩
    rw [step_of_cons hinputs, runTransaction]
    cases decodeAt t.level t.bytes with
    | ok r => exact .inl ⟨r.1, rfl⟩
    | error e =>
      cases e with
      | badOp code => exact .inr (.inl rfl)
      | truncated => exact .inr (.inr ⟨_, rfl⟩)
      | badOperand => exact .inr (.inr ⟨_, rfl⟩)

/-! ### Parameters, trace and writes, over every instruction -/

/-- What `i` may write from `s`: a TICK of a running worker, in Sending, the wire form of the head (R57, R94). -/
def mayWrite (i : Instr) (s : State) (w : List Byte) : Prop :=
  (∃ now, i = .tick now) ∧ s.linkOpen = true ∧ s.link.stalled = false ∧ s.link.sendState = .sending ∧
    (s.link.qOut = [] ∨ ∃ x q, s.link.qOut = x :: q ∧ encodePacket x = some w)

/-- Every instruction leaves the parameters alone and only adds to the trace; what it writes is the head's wire form, if there was a
head (R57, R94, R368, R405). -/
theorem emits_exec {i : Instr} {s t : State} (h : exec i s = .next t) : Emits (mayWrite i s) s t := by
  rcases exec_cases i s with ⟨now, rfl⟩ | ⟨ops, e⟩ | e | ⟨r, e⟩ | ⟨r, e⟩
  · rcases exec_tick_cases now s with e | e | ⟨-, e⟩ | ⟨hopen, -, hgo, e⟩ <;> rw [e] at h
    · cases h
      exact .of_eq rfl rfl
    · cases h
      exact .refl s
    · cases h
    · let n := timeOf s.params now
      have hearly : EarlyFrame s (upToPhase3 n s) := earlyFrame_upToPhase3 n hopen
      have hwrite : (upToPhase3 n s).link.sendState = .sending → ∀ x ∈ (upToPhase3 n s).link.qOut.head?,
          ∀ w, encodePacket x = some w → mayWrite (.tick now) s w := by
        intro hs x hx w hw
        refine ⟨⟨now, rfl⟩, hopen, hgo, hearly.sendState.symm.trans hs, ?_⟩
        cases hq : s.link.qOut with
        | nil => exact .inl rfl
        | cons y q =>
          have hhead := hearly.head (hq ▸ List.cons_ne_nil y q)
          rw [Option.mem_def.1 hx, hq, List.head?_cons] at hhead
          exact .inr ⟨y, q, rfl, Option.some.inj hhead ▸ hw⟩
      have hup : Emits (mayWrite (.tick now) s) s (upToPhase3 n s) := emits_upToPhase3 n s
      obtain ⟨d, rfl, rfl | ⟨-, hd⟩⟩ := tickPhase3_next h
      · exact hup.trans (emits_endTick _)
      · exact (hup.trans (emits_phase3 hwrite hd)).trans (emits_endTick d)
  · cases e.symm.trans h
    exact emits_runAgents ops s
  · cases e.symm.trans h
    exact emits_close s
  · cases e.symm.trans h
    exact .of_eq rfl rfl
  · cases e.symm.trans h

/-- A step leaves the parameters alone, and only adds to the trace (R368, R405). -/
theorem step_keeps_params_and_trace {s t : State} (h : step s = .next t) :
    t.params = s.params ∧ ∃ out, t.trace = s.trace ++ out := by
  rcases step_cases s with e | ⟨tr, rest, -, ⟨i, e⟩ | e | ⟨r, e⟩⟩ <;> rw [e] at h
  · cases h
    exact ⟨rfl, [], by simp⟩
  · have hemits := emits_exec h
    obtain ⟨out, hout, -⟩ := hemits.trace
    exact ⟨hemits.params, out, hout⟩
  · cases h
    exact ⟨rfl, [], by simp⟩
  · cases h

/-- Settles O57: no instruction writes the parameters. -/
theorem parametersNeverChange : Obligations.ParametersNeverChange := by
  unfold Obligations.ParametersNeverChange
  exact fun s t h => (step_keeps_params_and_trace h).1

/-- Settles O58: every instruction only adds to the trace. -/
theorem outputTraceOnlyGrows : Obligations.OutputTraceOnlyGrows := by
  unfold Obligations.OutputTraceOnlyGrows
  exact fun s t h => (step_keeps_params_and_trace h).2

/-- Settles O60: what may be written is the head's wire form, and the invariant gives Sending a head (R57). -/
theorem onlyTheHeadIsWritten : Obligations.OnlyTheHeadIsWritten := by
  unfold Obligations.OnlyTheHeadIsWritten
  intro i s t w hinv hexec hwrite
  obtain ⟨out, htrace, hout⟩ := (emits_exec hexec).trace
  rw [htrace, List.drop_left] at hwrite
  obtain ⟨htick, hopen, hgo, hsend, hnil | hhead⟩ := hout w hwrite
  · exact absurd hnil ((hinv hopen).singleFlight hgo (by simp [hsend]))
  · exact ⟨htick, hopen, hsend, hhead⟩

end Sys2Proof.Machine

namespace Sys2Proof.Safety
open Sys2Proof Sys2Proof.Machine

/-! ### Every step keeps the invariant -/

theorem inv_of_closed {s : State} (h : s.linkOpen = false) : Inv s := fun hopen => absurd hopen (by simp [h])

/-- A step of another agent on a link open or not: OPEN alone creates a link, which meets the invariant (R59). -/
theorem inv_agentStep (op : AgentOp) {s : State} (h : Inv s) : Inv (agentStep op s) := by
  by_cases hopen : s.linkOpen = true
  · intro _
    rw [(agentStep_frame op s hopen).params]
    exact agentStep_keeps_inv op s hopen (h hopen)
  · rw [Bool.not_eq_true] at hopen
    cases op with
    | openLink a =>
      by_cases ht : s.env.transportOpens = true
      · rw [agentStep, openLink_of_success a hopen ht]
        exact fun _ => linkInv_afterOpen _ _ _ _ _
      · rw [agentStep, openLink_of_failure a hopen (by simpa using ht)]
        exact inv_of_closed hopen
    | rxByte b =>
      rw [agentStep, receiveByte_of_closed b hopen]
      exact inv_of_closed hopen
    | close =>
      rw [agentStep, if_neg (by simp [hopen])]
      exact inv_of_closed hopen
    | enqueue t =>
      rw [agentStep, enqueue_of_notAccepting t (.inl hopen)]
      exact inv_of_closed hopen
    | setConfig reg v =>
      rw [agentStep, setConfig_of_notAccepting reg v (.inl hopen)]
      exact inv_of_closed hopen

theorem inv_runAgents (ops : List AgentOp) {s : State} (h : Inv s) : Inv (runAgents ops s) := by
  induction ops generalizing s with
  | nil => exact h
  | cons op ops ih => exact ih (inv_agentStep op h)

/-- After CLOSE there is no link to speak of, unless CLOSE still waits (R327, U10). -/
theorem inv_closeRest {s : State} (h : Inv s) : Inv (closeRest s) := by
  have hrest : Inv (runAgents s.env.gaps.duringClose s) := inv_runAgents _ h
  rcases closeEnd_cases (runAgents s.env.gaps.duringClose s) with ⟨-, e⟩ | e <;> rw [closeRest, e]
  · exact hrest
  · exact inv_of_closed rfl

theorem inv_close {s : State} (h : Inv s) : Inv (close s) := by
  unfold close
  split
  · exact inv_closeRest fun hopen => { h hopen with }
  · exact h

theorem inv_endTick {s : State} (h : Inv s) : Inv (endTick s) := by
  unfold endTick
  split
  · exact inv_closeRest h
  · exact h

/-- From a good state the phases of a TICK complete in a good state, whatever falls between and inside them. -/
theorem tickPhase3_completes (now : Nat) {s : State} (hopen : s.linkOpen = true) (h : Inv s) :
    ∃ t, tickPhase3 now (upToPhase3 now s) = .next t ∧ Inv t := by
  have hearly : EarlyFrame s (upToPhase3 now s) := earlyFrame_upToPhase3 now hopen
  have hinv : LinkInv (upToPhase3 now s).params (upToPhase3 now s).link := by
    rw [hearly.params]
    exact upToPhase3_keeps_inv now hopen (h hopen)
  unfold tickPhase3
  split
  · exact ⟨_, rfl, inv_endTick fun _ => hinv⟩
  · next hgo =>
    obtain ⟨d, hd, hdinv⟩ := phase3_completes now (hearly.linkOpen.trans hopen) (by simpa using hgo) hinv
    have hparams : d.params = (upToPhase3 now s).params :=
      (emits_phase3 (W := fun _ => True) (fun _ _ _ _ _ => trivial) hd).params
    refine ⟨endTick d, by rw [hd]; rfl, inv_endTick fun _ => ?_⟩
    rw [hparams]
    exact hdinv

/-- From a good state an instruction completes in a good state, or is refused by name. -/
theorem exec_of_Inv (i : Instr) {s : State} (h : Inv s) :
    (∃ t, exec i s = .next t ∧ Inv t) ∨ ∃ r, exec i s = .refused r := by
  rcases exec_cases i s with ⟨now, rfl⟩ | ⟨ops, e⟩ | e | ⟨r, e⟩ | ⟨r, e⟩
  · rcases exec_tick_cases now s with e | e | ⟨-, e⟩ | ⟨hopen, -, -, e⟩
    · exact .inl ⟨_, e, h⟩
    · exact .inl ⟨_, e, h⟩
    · exact .inr ⟨_, e⟩
    · obtain ⟨t, ht, htinv⟩ := tickPhase3_completes (timeOf s.params now) hopen h
      exact .inl ⟨t, e.trans ht, htinv⟩
  · exact .inl ⟨_, e, inv_runAgents ops h⟩
  · exact .inl ⟨_, e, inv_close h⟩
  · exact .inl ⟨_, e, h⟩
  · exact .inr ⟨r, e⟩

theorem step_of_Inv {s : State} (h : Inv s) : (∃ t, step s = .next t ∧ Inv t) ∨ ∃ r, step s = .refused r := by
  rcases step_cases s with e | ⟨tr, rest, -, ⟨i, e⟩ | e | ⟨r, e⟩⟩
  · exact .inl ⟨s, e, h⟩
  · have htaken : Inv (takeInput tr rest s) := h
    rw [e]
    exact exec_of_Inv i htaken
  · exact .inl ⟨_, e, h⟩
  · exact .inr ⟨r, e⟩

/-- Settles O52: every part of every instruction keeps the invariant. -/
theorem stepKeepsTheLinkInvariant : Obligations.StepKeepsTheLinkInvariant := by
  unfold Obligations.StepKeepsTheLinkInvariant
  intro s t hinv hstep
  rcases step_of_Inv hinv with ⟨u, hu, huinv⟩ | ⟨r, hr⟩
  · cases hu.symm.trans hstep
    exact huinv
  · cases hr.symm.trans hstep

/-- Settles O56: a step from a good state completes or is refused. -/
theorem goodStatesNeverFault : Obligations.GoodStatesNeverFault := by
  unfold Obligations.GoodStatesNeverFault
  intro s f hinv hfault
  rcases step_of_Inv hinv with ⟨u, hu, -⟩ | ⟨r, hr⟩
  · cases hu.symm.trans hfault
  · cases hr.symm.trans hfault

/-- Settles O55: past the tests at its start, a TICK from a good state has only phases that complete. -/
theorem tickAlwaysCompletes : Obligations.TickAlwaysCompletes := by
  unfold Obligations.TickAlwaysCompletes
  intro now s hinv hrun hclock
  rcases exec_tick_cases now s with e | e | ⟨hback, -⟩ | ⟨hopen, -, -, e⟩
  · exact ⟨_, e⟩
  · exact ⟨_, e⟩
  · simp [clockForward, hback] at hclock
  · obtain ⟨t, ht, -⟩ := tickPhase3_completes (timeOf s.params now) hopen hinv
    exact ⟨t, e.trans ht⟩

end Sys2Proof.Safety

namespace Sys2Proof.Machine
open Sys2Proof Sys2Proof.Safety

/-! ### Phase 3 beside no other agent leaves the others' registers alone (R94, R378) -/

theorem writeHead_frame (w : List Byte) (s : State) : WorkerFrame s (writeHead w s) :=
  ⟨rfl, rfl, rfl, rfl, rfl, rfl, rfl, ⟨[.write w], rfl⟩, stampHead_frame s.link,
    fun _ _ => ⟨rfl, stampHead_stalled s.link⟩⟩

/-- A write that never returns is the one place where the worker stalls with its handlers returning (U9). -/
theorem stall_frame {s : State} (h : s.env.writeReturns = false) : WorkerFrame s (s.mapLink stall) :=
  ⟨rfl, rfl, rfl, rfl, rfl, rfl, rfl, ⟨[], by simp⟩, ⟨rfl, rfl, rfl, rfl, rfl⟩, fun hw => absurd hw (by simp [h])⟩

theorem transmit_frame (now : Nat) (x : Packet) (w : List Byte) {s : State} (hgap : s.env.gaps.duringWrite = []) :
    WorkerFrame s (transmit now x w s) := by
  unfold transmit
  rw [hgap]
  split
  · exact ((writeHead_frame w s).trans (fire_frame _ _)).trans (unlessStalled_frame (dispose_frame now x _))
  · next hw => exact (writeHead_frame w s).trans (stall_frame (s := writeHead w s) (by simpa using hw))

theorem sendingAction_frame {now : Nat} {x : Packet} {s t : State} (hgap : s.env.gaps.duringWrite = [])
    (e : sendingAction now x s = .next t) : WorkerFrame s t := by
  unfold sendingAction at e
  split at e
  · cases e
    exact (mapLink_frame s (fun l => { l with requestOpen := false }) ⟨rfl, rfl, rfl, rfl, rfl⟩ rfl).trans (dropHead_frame _)
  · split at e
    · cases e
    · cases e
      exact (mapLink_frame s _ (detectReset_frame s.params x s.link) (detectReset_stalled s.params x s.link)).trans
        (transmit_frame now _ _ hgap)

theorem phase3_frame {now : Nat} {s t : State} (hgap : s.env.gaps.duringWrite = []) (e : phase3 now s = .next t) :
    WorkerFrame s t := by
  cases hs : s.link.sendState with
  | idle =>
    rw [phase3_of_idle now hs] at e
    cases e
    unfold idleAction
    split
    · exact .refl s
    · exact mapLink_frame s _ ⟨rfl, rfl, rfl, rfl, rfl⟩ rfl
  | sending =>
    simp only [phase3, hs] at e
    obtain ⟨x, -, e⟩ := withHead_next e
    exact sendingAction_frame hgap e
  | waitingForAck =>
    simp only [phase3, hs] at e
    obtain ⟨x, -, e⟩ := withHead_next e
    exact waitAckAction_frame e
  | waitingForResponse =>
    simp only [phase3, hs] at e
    obtain ⟨x, -, e⟩ := withHead_next e
    cases e
    exact waitResponseAction_frame now x s

/-! ### A TICK with no step of another agent inside it -/

theorem gaps_of_undisturbed {s : State} (h : undisturbed s = true) : s.env.gaps = Gaps.none := by
  simpa [undisturbed] using h

/-- The start of a TICK and its first two phases. -/
def firstPhases (now : Nat) (s : State) : State := phase2 now (phase1 (startTick now s))

theorem upToPhase3_of_undisturbed (now : Nat) {s : State} (h : s.env.gaps = Gaps.none) :
    upToPhase3 now s = firstPhases now s := by
  rw [upToPhase3, h]
  rfl

theorem firstPhases_frame (now : Nat) (s : State) : WorkerFrame (startTick now s) (firstPhases now s) :=
  (phase1_frame _).trans (phase2_frame now _)

/-- Before or after its phase 3, an undisturbed TICK has changed of `LinkFrame`'s registers what its start has, and no more. -/
theorem undisturbed_frame {now : Nat} {s d : State} (hgaps : s.env.gaps = Gaps.none)
    (hd : d = firstPhases now s ∨ phase3 now (firstPhases now s) = .next d) : WorkerFrame (startTick now s) d := by
  rcases hd with rfl | hd
  · exact firstPhases_frame now s
  · have hgap : (firstPhases now s).env.gaps.duringWrite = [] := by
      rw [(firstPhases_frame now s).gaps]
      exact congrArg Gaps.duringWrite hgaps
    exact (firstPhases_frame now s).trans (phase3_frame hgap hd)

theorem startTick_stop (now : Nat) (s : State) : (startTick now s).link.stop = s.link.stop := by
  obtain ⟨-, -, -, -, -, hstop, -⟩ := startTick_frame now s
  exact hstop

theorem startTick_rxBuf (now : Nat) (s : State) : (startTick now s).link.rxBuf = s.link.rxBuf := by
  obtain ⟨-, -, -, -, -, -, hbuf, -⟩ := startTick_frame now s
  exact hbuf

/-- With no CLOSE begun inside it the end of a TICK does nothing (R327). -/
theorem endTick_of_not_stopping {s : State} (h : s.link.stop = false) : endTick s = s := by simp [endTick, h]

theorem endTick_of_stopping {s : State} (h : s.link.stop = true) :
    endTick s = closeEnd (runAgents s.env.gaps.duringClose s) := by
  simp [endTick, h, closeRest]

/-- Settles O59: no phase writes the registers, and with no CLOSE inside the TICK its end does nothing. -/
theorem workerLeavesOthersRegisters : Obligations.WorkerLeavesOthersRegisters := by
  unfold Obligations.WorkerLeavesOthersRegisters
  intro now s t hund htick
  rcases exec_tick_cases now s with e | e | ⟨-, e⟩ | ⟨-, hstop, -, e⟩ <;> rw [e] at htick
  · cases htick
    exact ⟨rfl, rfl, rfl⟩
  · cases htick
    exact ⟨rfl, rfl, rfl⟩
  · cases htick
  · let n := timeOf s.params now
    have hgaps := gaps_of_undisturbed hund
    obtain ⟨d, rfl, hd⟩ := tickPhase3_next htick
    rw [upToPhase3_of_undisturbed n hgaps] at hd
    have hframe : WorkerFrame (startTick n s) d := undisturbed_frame hgaps (hd.imp id And.right)
    have hdstop : d.link.stop = s.link.stop := hframe.link.stop.trans (startTick_stop n s)
    rw [endTick_of_not_stopping (hdstop.trans hstop)]
    exact ⟨hframe.link.rxBuf.trans (startTick_rxBuf n s), hdstop, hframe.linkOpen⟩

/-! ### The start of a TICK -/

/-- On an idle link the held requests are written, in order, and forgotten (R332). -/
theorem startTick_of_idle (k : Nat) {s : State} (hidle : s.link.sendState = .idle ∧ s.link.rxBuf = []) :
    startTick k s =
      { s with link := { s.link with cfg := writeAll s.link.cfg s.link.pending, pending := [], lastNow := k } } := by
  have hl : linkIdle { s.link with lastNow := k } = true := (linkIdle_iff _).2 hidle
  rw [startTick, State.mapLink, applyHeld, if_pos hl]

/-- On any other link they stay held (R332). -/
theorem startTick_of_busy (k : Nat) {s : State} (hbusy : ¬ (s.link.sendState = .idle ∧ s.link.rxBuf = [])) :
    startTick k s = { s with link := { s.link with lastNow := k } } := by
  have hl : ¬ linkIdle { s.link with lastNow := k } = true := mt (linkIdle_iff _).1 hbusy
  rw [startTick, State.mapLink, applyHeld, if_neg hl]

theorem phase1_of_nil {s : State} (h : s.link.qRaw = []) : phase1 s = s := by
  rw [phase1_eq_foldl_classify, State.mapLink, h, List.map_nil, List.foldl_nil, ← h]

theorem plainTick_iff (s : State) (now : Nat) :
    plainTick s now = true ↔ quietTick s now = true ∧ s.link.qRaw = [] ∧ s.link.qData = [] := by
  simp [plainTick, and_assoc]

/-- A quiet TICK of an idle link with nothing to do in its phases is its start (R250, R271). -/
theorem exec_tick_of_nothing_to_do {now : Nat} {s : State} (hplain : plainTick s now = true)
    (hidle : s.link.sendState = .idle ∧ s.link.rxBuf = []) (hout : s.link.qOut = []) :
    exec (.tick now) s = .next (startTick (timeOf s.params now) s) := by
  obtain ⟨hquiet, hraw, hdata⟩ := (plainTick_iff s now).1 hplain
  obtain ⟨⟨-, hstop⟩, -⟩ := (quietTick_iff s now).1 hquiet
  let a : State := startTick (timeOf s.params now) s
  have ha : a = _ := startTick_of_idle (timeOf s.params now) hidle
  have hphase1 : phase1 a = a := phase1_of_nil (by rw [ha]; exact hraw)
  have hphase2 : phase2 (timeOf s.params now) a = a := phase2_of_nil _ (by rw [ha]; exact hdata)
  have hphase3 : phase3 (timeOf s.params now) a = .next a := by
    rw [phase3_of_idle _ (by rw [ha]; exact hidle.1), idleAction, if_pos (by rw [ha]; exact List.isEmpty_iff.2 hout)]
  rw [exec_tick_of_quiet hquiet, hphase1, hphase2, hphase3]
  exact congrArg Host.Outcome.next (endTick_of_not_stopping ((startTick_stop _ s).trans hstop))

/-- Settles O33: the start applies the list as its equations say, and no phase writes registers or list. -/
theorem heldRequestsWaitForIdle : Obligations.HeldRequestsWaitForIdle := by
  unfold Obligations.HeldRequestsWaitForIdle
  intro now s n idle write written
  have hwrite : write = fun c rv => writeReg c rv.1 rv.2 := by
    funext c rv
    obtain ⟨r, v⟩ := rv
    cases r <;> rfl
  have hwritten : writeAll s.link.cfg s.link.pending = written := by
    rw [writeAll, ← hwrite]
  have hn : timeOf s.params now = n := rfl
  refine ⟨fun hidle k => ?_, fun hbusy k => startTick_of_busy k hbusy, fun hplain hidle hout => ?_, fun t hquiet htick => ?_⟩
  · rw [startTick_of_idle k hidle, hwritten]
  · rw [exec_tick_of_nothing_to_do hplain hidle hout, startTick_of_idle _ hidle, hwritten, hn]
  · obtain ⟨-, -, -, hgaps, -⟩ := (quietTick_iff s now).1 hquiet
    have hframe : WorkerFrame (startTick n s) t := undisturbed_frame hgaps (.inr (phase3_of_quiet hquiet htick))
    rw [hframe.link.cfg, hframe.link.pending]
    refine ⟨fun hidle => ?_, fun hbusy => ?_⟩
    · rw [startTick_of_idle n hidle]
      exact ⟨hwritten, rfl⟩
    · rw [startTick_of_busy n hbusy]
      exact ⟨rfl, rfl⟩

/-! ### The order of a TICK -/

/-- A TICK of a worker that runs is its parts in order (R250, R372). -/
theorem exec_tick_of_running {now : Nat} {s : State} (hrun : running s = true) (hready : ready s = true)
    (hclock : clockForward s now = true) :
    exec (.tick now) s = tickPhase3 (timeOf s.params now) (upToPhase3 (timeOf s.params now) s) := by
  obtain ⟨hopen, hstop⟩ := linkOpen_and_stop_of_running hrun
  have hgo : s.link.stalled = false := stalled_of_ready hready
  have hforward : clockBackwards s.params s.link now = false := by simpa [clockForward] using hclock
  rw [← runTick_eq _ hopen]
  simp [exec_tick, execTick, hopen, hstop, hgo, hforward]

theorem tickPhase3_of_stalled {now : Nat} {c : State} (h : c.link.stalled = true) : tickPhase3 now c = .next (endTick c) :=
  if_pos h

theorem tickPhase3_of_ready {now : Nat} {c : State} (h : c.link.stalled = false) :
    tickPhase3 now c = andThen (phase3 now c) fun d => .next (endTick d) := by
  simp [tickPhase3, h]

/-- What an undisturbed TICK that has not begun to stop ends with: its phase 3, or what it came to before it (R250, U13). -/
theorem tickPhase3_of_undisturbed {now : Nat} {s : State} (hgaps : s.env.gaps = Gaps.none) (hstop : s.link.stop = false) :
    tickPhase3 now (firstPhases now s) =
      if (firstPhases now s).link.stalled = true then .next (firstPhases now s) else phase3 now (firstPhases now s) := by
  have hends : ∀ d, (d = firstPhases now s ∨ phase3 now (firstPhases now s) = .next d) → endTick d = d := fun d hd =>
    endTick_of_not_stopping ((undisturbed_frame hgaps hd).link.stop.trans ((startTick_stop now s).trans hstop))
  unfold tickPhase3
  split
  · rw [hends _ (.inl rfl)]
  · cases hp : phase3 now (firstPhases now s) with
    | next d => rw [andThen, hends d (.inr hp)]
    | fault f => rfl
    | refused r => rfl

/-- Settles O34: the TICK unfolds into its parts, and its end is CLOSE's second step when CLOSE has begun inside it. -/
theorem tickRunsPhasesInOrder : Obligations.TickRunsPhasesInOrder := by
  unfold Obligations.TickRunsPhasesInOrder
  refine ⟨fun op ops u => ⟨rfl, rfl⟩, fun u => ⟨fun b => rfl, fun a => rfl, fun t => rfl, fun reg v => rfl,
    fun hopen => if_pos hopen, fun hclosed => if_neg (by simp [hclosed])⟩, ?_⟩
  intro now s hrun hready hclock n a b c endsAfter
  obtain ⟨hopen, hstop⟩ := linkOpen_and_stop_of_running hrun
  have hc : c = upToPhase3 n s := rfl
  have htick : exec (.tick now) s = tickPhase3 n c := by
    rw [hc]
    exact exec_tick_of_running hrun hready hclock
  have hends : ∀ d, exec (.tick now) s = .next (endTick d) → endsAfter d := by
    intro d hd
    refine ⟨endTick d, hd, endTick_of_not_stopping, fun hclosing => ?_⟩
    rw [endTick_of_stopping hclosing]
    rcases closeEnd_cases (runAgents d.env.gaps.duringClose d) with ⟨hstill, e⟩ | e <;> rw [e]
    · exact ⟨rfl, rfl, rfl, .inr ⟨hstill, rfl, rfl, rfl, rfl⟩⟩
    · exact ⟨rfl, rfl, rfl, .inl ⟨rfl, rfl, rfl⟩⟩
  refine ⟨fun hstill => hends c (htick.trans (tickPhase3_of_stalled hstill)), fun hgo => ?_, fun hund => ?_⟩
  · have hthen := htick.trans (tickPhase3_of_ready hgo)
    exact ⟨fun d hd => hends d (by rw [hthen, hd]; rfl), fun f hf => by rw [hthen, hf]; rfl,
      fun r hr => by rw [hthen, hr]; rfl⟩
  · have hgaps := gaps_of_undisturbed hund
    rw [htick, hc, upToPhase3_of_undisturbed n hgaps]
    exact tickPhase3_of_undisturbed hgaps hstop

end Sys2Proof.Machine

namespace Sys2Proof.Machine
open Sys2Proof Sys2Proof.Safety

/-! ### The CRC stamp (R192, D53) -/

theorem withCrc_toHeader (p : Packet) : (withCrc p).toHeader = p.toHeader := by
  unfold withCrc
  split <;> rfl

theorem withCrc_of_messageKind {p : Packet} (hk : isMessage p.kind = true) :
    withCrc p = { p with crc := some (messageCrc p.toHeader (messageOf p) p.payload) } := if_pos hk

theorem withCrc_of_other {p : Packet} (hk : ¬ isMessage p.kind = true) : withCrc p = p := if_neg hk

/-- ENCODE does not read the field a transmission stamps. -/
theorem unstuffed_withCrc (p : Packet) : unstuffed (withCrc p) = unstuffed p := by
  unfold withCrc
  split <;> rfl

theorem encodePacket_withCrc (p : Packet) : encodePacket (withCrc p) = encodePacket p := by
  rw [encodePacket, unstuffed_withCrc, encodePacket]

theorem withCrc_withCrc (p : Packet) : withCrc (withCrc p) = withCrc p := by
  by_cases hk : isMessage p.kind = true
  · rw [withCrc_of_messageKind (p := withCrc p) (by rwa [withCrc_kind]), withCrc_of_messageKind hk]
    rfl
  · rw [withCrc_of_other (p := withCrc p) (by rwa [withCrc_kind])]

theorem crc16_append_left (a b : List Byte) : crc16 (a ++ b) a.length = crc16 a a.length := by
  rw [crc16, crc16, List.take_left, List.take_length]

/-- The CRC stamped is that of everything before the CRC field (R192). -/
theorem withCrc_eq_crc16 {p : Packet} {m : Message} {u : List Byte} (hk : isMessage p.kind = true) (hm : p.msg = some m)
    (hu : unstuffed p = some u) : withCrc p = { p with crc := some (crc16 u (u.length - 2)) } := by
  rw [unstuffed_of_isMessage hk hm] at hu
  obtain rfl := Option.some.inj hu
  have hlen : (messageBody p.toHeader m p.payload ++ crcBytes (messageCrc p.toHeader m p.payload)).length - 2 =
      (messageBody p.toHeader m p.payload).length := by simp [crcBytes]
  rw [withCrc_of_messageKind hk, messageOf_of_some hm, hlen, crc16_append_left, messageCrc]

/-! ### Sending a head that is not stale -/

/-- What reset detection on `h` makes of the link, by whether `h` is a reset reply (R268, R274). -/
theorem detectReset_eq {p : Params} {h : Packet} {k l : Link}
    (hre : isResetReply p h = true → l = { k with seqCtr := 0, lastAckSeq := none })
    (hno : ¬ isResetReply p h = true → l = k) : detectReset p h k = l := by
  by_cases hr : isResetReply p h = true
  · rw [detectReset, if_pos hr, hre hr, resetTrackers]
  · rw [detectReset, if_neg hr, hno hr]

/-- A head is not stale while no answer is owed, or the time for it has not passed (R273). -/
theorem isStale_eq_false {now : Nat} {s : State}
    (h : s.link.requestOpen = true → (match s.params.timeW with
      | none => now - s.link.tReq
      | some w => (now + 2 ^ w - s.link.tReq % 2 ^ w) % 2 ^ w) < s.link.cfg.respTimeout) : isStale now s = false := by
  rw [isStale, elapsed_eq]
  cases hopen : s.link.requestOpen with
  | false => rfl
  | true => exact decide_eq_false (Nat.not_le.2 (h hopen))

/-- The head's bytes have been handed over, from the link `l` (R192, R275). -/
def handedOver (l : Link) (h : Packet) (q : List Packet) (w : List Byte) (s : State) : State :=
  { s with link := { l with qOut := withCrc h :: q }, trace := s.trace ++ [.write w] }

/-- The write of a head that is not stale, and what follows it where it returns (R274, R275, U9). -/
theorem phase3_of_writing (now : Nat) {s : State} {l : Link} {h : Packet} {q : List Packet} {w : List Byte}
    (hsend : s.link.sendState = .sending) (hout : s.link.qOut = h :: q) (hw : encodePacket h = some w)
    (hfresh : isStale now s = false) (hl : detectReset s.params h s.link = l) :
    phase3 now s = .next (
      if s.env.writeReturns then
        unlessStalled (dispose now (withCrc h))
          ((runAgents s.env.gaps.duringWrite (handedOver l h q w s)).fire (.onRawBytesSent w))
      else runAgents s.env.gaps.duringWrite ((handedOver l h q w s).mapLink stall)) := by
  have hlout : l.qOut = h :: q := by rw [← hl, detectReset_qOut, hout]
  have hover : writeHead w (s.mapLink (detectReset s.params h)) = handedOver l h q w s := by
    rw [writeHead, handedOver, State.mapLink, State.mapLink, hl, stampHead, hlout]
    rfl
  rw [phase3_of_sending now hsend hout, sendingAction, hfresh, if_neg Bool.false_ne_true, hw]
  simp only [transmit, hover]
  rfl

section Disposal

variable (now : Nat) {h : Packet} {s : State}

theorem dispose_of_control (hc : isControl h.kind = true) : dispose now h s = dropHead s := if_pos hc

theorem not_isControl_of_isMessage {k : Kind} (hm : isMessage k = true) : ¬ isControl k = true := fun hc => by
  simp [isMessage_of_isControl hc] at hm

theorem dispose_of_answer (hm : isMessage h.kind = true) (howed : s.link.requestOpen = true) :
    dispose now h s = answerSent h s := by
  rw [dispose, if_neg (not_isControl_of_isMessage hm), if_pos howed]

theorem dispose_of_message (hm : isMessage h.kind = true) (hfree : s.link.requestOpen = false) :
    dispose now h s = { s with link := { s.link with tSend := now, sendState := .waitingForAck } } := by
  rw [dispose, if_neg (not_isControl_of_isMessage hm), if_neg (by simp [hfree]), State.mapLink]

end Disposal

/-- Where handlers return, the answer that was owed is done with and reported (R276). -/
theorem answerSent_of_returns (h : Packet) {s : State} (hret : s.env.handlerStall = none) (hgo : s.link.stalled = false) :
    answerSent h s =
      { s with
        link := { s.link with qOut := s.link.qOut.tail, ackToCnt := 0, nackCnt := 0, sendState := .idle, requestOpen := false }
        trace := s.trace ++ [.event (.onPacketSent h)] } := by
  rw [answerSent, State.fire_of_returns (s := s.mapLink popHead) _ hret]
  exact unlessStalled_of_ready hgo

theorem returns_iff (s : State) : returns s = true ↔ s.env.writeReturns = true ∧ s.env.handlerStall = none := by
  simp [returns]

/-- Settles O43: reset detection, the write with the steps inside it, and the disposal by kind and by the answer owed. -/
theorem sendingWritesAndDisposes : Obligations.SendingWritesAndDisposes := by
  unfold Obligations.SendingWritesAndDisposes
  intro now s l h q w hopen hready hreturns hsend hout hw waited hwaited restarted hre hno m
  obtain ⟨hwrites, hret⟩ := (returns_iff s).1 hreturns
  have hreset : isResetReply s.params h = true ↔ restarted := isResetReply_iff s.params h
  have hl : detectReset s.params h s.link = l := detectReset_eq (fun hr => hre (hreset.1 hr)) fun hr => hno (mt hreset.2 hr)
  have hphase := phase3_of_writing now hsend hout hw (isStale_eq_false hwaited) hl
  have hlgo : l.stalled = false := by rw [← hl, detectReset_stalled, stalled_of_ready hready]
  have hlowed : l.requestOpen = s.link.requestOpen := by rw [← hl, detectReset_requestOpen]
  have hframe : AgentFrame (handedOver l h q w s) m := runAgents_frame _ _ hopen
  have hgo : m.link.stalled = false := hframe.stalled.trans hlgo
  have howed : m.link.requestOpen = s.link.requestOpen := hframe.requestOpen.trans hlowed
  have hmret : m.env.handlerStall = none := by rw [hframe.env]; exact hret
  have hkind : (withCrc h).kind = h.kind := withCrc_kind h
  let sent : State := m.emit (.event (.onRawBytesSent w))
  have hsent : m.fire (.onRawBytesSent w) = sent := State.fire_of_returns _ hmret
  have hthen : phase3 now s = .next (dispose now (withCrc h) sent) := by
    rw [hphase, if_pos hwrites]
    change Host.Outcome.next (unlessStalled _ (m.fire _)) = _
    rw [hsent, unlessStalled_of_ready (s := sent) hgo]
  refine ⟨?_, hframe.trace, fun hc => ?_, fun hm hopened => ?_, fun hm hclosed => ?_⟩
  · have hhead : m.link.qOut.head? = some (withCrc h) := hframe.head (List.cons_ne_nil _ _)
    cases hq : m.link.qOut with
    | nil => simp [hq] at hhead
    | cons x r => exact ⟨r, by rw [hq, List.head?_cons] at hhead; rw [Option.some.inj hhead]⟩
  · rw [hthen, dispose_of_control now (hkind.symm ▸ hc)]
    rfl
  · rw [hthen, dispose_of_answer (s := sent) now (hkind.symm ▸ hm) (howed.trans hopened),
      answerSent_of_returns (s := sent) _ hmret hgo]
    simp [sent, State.emit]
  · rw [hthen, dispose_of_message (s := sent) now (hkind.symm ▸ hm) (howed.trans hclosed)]
    rfl

/-! ### A retransmission (R291) -/

/-- A transmission's bytes come first in what it adds to the trace (R275). -/
theorem transmit_trace (now : Nat) (x : Packet) (w : List Byte) {s : State} (hopen : s.linkOpen = true) :
    ∃ out, (transmit now x w s).trace = s.trace ++ .write w :: out := by
  unfold transmit
  split
  · let m : State := runAgents s.env.gaps.duringWrite (writeHead w s)
    have hm : m.trace = s.trace ++ [.write w] := (runAgents_frame _ (writeHead w s) hopen).trace
    obtain ⟨out, hout⟩ := (unlessStalled_frame (dispose_frame now x (m.fire (.onRawBytesSent w)))).trace
    exact ⟨.event (.onRawBytesSent w) :: out, by rw [hout, State.fire_trace, hm]; simp⟩
  · exact ⟨[], (runAgents_frame _ ((writeHead w s).mapLink stall) hopen).trace⟩

/-- Disposal comes to WaitingForAck from Sending only by leaving `Q_OUT` as it is (R276, R277). -/
theorem qOut_of_dispose_waits {now : Nat} {x : Packet} {s : State} (hs : s.link.sendState = .sending)
    (ht : (dispose now x s).link.sendState = .waitingForAck) : (dispose now x s).link.qOut = s.link.qOut := by
  unfold dispose at ht ⊢
  split at ht
  · cases ht
  · split at ht
    · unfold answerSent at ht
      rcases unlessStalled_cases (State.mapLink fun l => goto .idle { l with requestOpen := false })
        ((s.mapLink popHead).fire (.onPacketSent x)) with ⟨-, e⟩ | ⟨-, e⟩ <;> rw [e] at ht
      · cases hs.symm.trans ht
      · cases ht
    · rw [if_neg ‹_›, if_neg ‹_›]
      rfl

/-- A transmission that comes to wait for its ack has the packet it wrote at the head (R89, R277). -/
theorem qOut_of_transmit_waits {now : Nat} {h : Packet} {q : List Packet} {w : List Byte} {s : State}
    (hopen : s.linkOpen = true) (hs : s.link.sendState = .sending) (hq : s.link.qOut = h :: q)
    (ht : (transmit now (withCrc h) w s).link.sendState = .waitingForAck) :
    ∃ q', (transmit now (withCrc h) w s).link.qOut = withCrc h :: q' := by
  have hstamped : (writeHead w s).link.qOut = withCrc h :: q := stampHead_qOut_of_cons hq
  have hws : (writeHead w s).link.sendState = .sending := (stampHead_sendState s.link).trans hs
  unfold transmit at ht ⊢
  split at ht
  · rw [if_pos ‹_›]
    let m : State := runAgents s.env.gaps.duringWrite (writeHead w s)
    have hframe : AgentFrame (writeHead w s) m := runAgents_frame _ _ hopen
    have hms : m.link.sendState = .sending := hframe.sendState.trans hws
    have hhead : m.link.qOut.head? = some (withCrc h) := by
      rw [hframe.head (hstamped ▸ List.cons_ne_nil _ _), hstamped, List.head?_cons]
    rcases unlessStalled_cases (dispose now (withCrc h)) (m.fire (.onRawBytesSent w)) with ⟨-, e⟩ | ⟨-, e⟩ <;>
      rw [e] at ht ⊢
    · cases hms.symm.trans ht
    · rw [qOut_of_dispose_waits (s := m.fire _) hms ht]
      exact List.head?_eq_some_iff.1 hhead
  · have hframe := runAgents_frame s.env.gaps.duringWrite ((writeHead w s).mapLink stall) hopen
    rw [hframe.sendState] at ht
    cases hws.symm.trans ht

/-- The first Sending, seen from the ack it comes to wait for: what it wrote, and what it left at the head. -/
theorem sending_waits {now : Nat} {s t : State} {h : Packet} {q : List Packet} (hopen : s.linkOpen = true)
    (hs : s.link.sendState = .sending) (hq : s.link.qOut = h :: q) (e : phase3 now s = .next t)
    (ht : t.link.sendState = .waitingForAck) :
    ∃ w q', encodePacket h = some w ∧ (∃ out, t.trace = s.trace ++ .write w :: out) ∧ t.link.qOut = withCrc h :: q' := by
  rw [phase3_of_sending now hs hq, sendingAction] at e
  split at e
  · cases e
    cases ht
  · cases hw : encodePacket h with
    | none => simp [hw] at e
    | some w =>
      simp only [hw] at e
      cases e
      let r : State := s.mapLink (detectReset s.params h)
      have hrs : r.link.sendState = .sending := (detectReset_sendState s.params h s.link).trans hs
      have hrq : r.link.qOut = h :: q := (detectReset_qOut s.params h s.link).trans hq
      obtain ⟨q', hq'⟩ := qOut_of_transmit_waits (s := r) hopen hrs hrq ht
      exact ⟨w, q', rfl, transmit_trace now _ w (s := r) hopen, hq'⟩

/-- A Sending with no answer owed writes the wire form of its head (R273, R275). -/
theorem sending_writes (now : Nat) {s : State} {h : Packet} {q : List Packet} {w : List Byte} (hopen : s.linkOpen = true)
    (hs : s.link.sendState = .sending) (hq : s.link.qOut = h :: q) (hfree : s.link.requestOpen = false)
    (hw : encodePacket h = some w) : ∃ t out, phase3 now s = .next t ∧ t.trace = s.trace ++ .write w :: out := by
  have hfresh : isStale now s = false := isStale_eq_false fun howed => absurd howed (by simp [hfree])
  obtain ⟨out, hout⟩ := transmit_trace now (withCrc h) w (s := s.mapLink (detectReset s.params h)) hopen
  refine ⟨_, out, ?_, hout⟩
  rw [phase3_of_sending now hs hq, sendingAction, hfresh, if_neg Bool.false_ne_true, hw]

/-- The end of a packet leaves the state where it was, or at Idle (R375). -/
theorem terminate_sendState (e : Event) (s : State) :
    (terminate e s).link.sendState = s.link.sendState ∨ (terminate e s).link.sendState = .idle := by
  unfold terminate
  rcases unlessStalled_cases (State.mapLink (goto .idle)) ((s.mapLink popHead).fire e) with ⟨-, h⟩ | ⟨-, h⟩ <;> rw [h]
  · exact .inl rfl
  · exact .inr rfl

theorem terminate_not_sending {e : Event} {s : State} (hs : s.link.sendState = .waitingForAck) :
    (terminate e s).link.sendState ≠ .sending := by
  rcases terminate_sendState e s with h | h <;> simp [h, hs]

/-- What follows the scan goes back to Sending only by counting, with `Q_OUT` as it is (R282, R283). -/
theorem qOut_of_afterScan_sends {now : Nat} {h : Packet} {found : Option Packet} {s t : State}
    (hs : s.link.sendState = .waitingForAck) (e : afterScan now h found s = .next t) (ht : t.link.sendState = .sending) :
    t.link.qOut = s.link.qOut := by
  unfold afterScan at e
  repeat' split at e
  all_goals cases e
  · unfold onPositiveAck at ht
    split at ht
    · cases ht
    · exact absurd ht (terminate_not_sending hs)
  · unfold onNegativeAck at ht ⊢
    split at ht
    · exact absurd ht (terminate_not_sending (s := s.mapLink countNack) hs)
    · rw [if_neg ‹_›]
      rfl
  · unfold onAckTimeout at ht ⊢
    rcases unlessStalled_cases (retryOrGiveUp h) (s.fire (.onAckNackObserved true none)) with ⟨-, e⟩ | ⟨-, e⟩ <;>
      rw [e] at ht ⊢
    · rfl
    · unfold retryOrGiveUp at ht ⊢
      split at ht
      · exact absurd ht (terminate_not_sending (s := State.mapLink countTimeout _) hs)
      · rw [if_neg ‹_›]
        rfl
  · rfl

/-- Going back to Sending leaves `Q_OUT` as it is (R282, R283, R291). -/
theorem qOut_of_waiting_sends {now : Nat} {s t : State} (hs : s.link.sendState = .waitingForAck)
    (e : phase3 now s = .next t) (ht : t.link.sendState = .sending) : t.link.qOut = s.link.qOut := by
  simp only [phase3, hs] at e
  obtain ⟨h, -, e⟩ := withHead_next e
  obtain ⟨⟨taken, rest, b, -, hlink⟩, -⟩ := scanAcks_link h.seq s.link.qAck s rfl
  have hscan : (scanAcks h.seq s.link.qAck s).2.link.sendState = .waitingForAck := by rw [hlink]; exact hs
  have hqOut : (scanAcks h.seq s.link.qAck s).2.link.qOut = s.link.qOut := by rw [hlink]
  unfold waitAckAction handleAcks at e
  split at e
  · cases e
    exact hqOut
  · exact (qOut_of_afterScan_sends hscan e ht).trans hqOut

/-- Settles O49: the stamped head has the bytes of the first Sending, and stands there until the next. -/
theorem retryWritesTheSameBytes : Obligations.RetryWritesTheSameBytes := by
  unfold Obligations.RetryWritesTheSameBytes
  refine ⟨fun now s t h q hopen hs hq e ht => ?_, fun now s t hs e ht => qOut_of_waiting_sends hs e ht, fun p =>
    ⟨encodePacket_withCrc p, withCrc_toHeader p, withCrc_withCrc p, fun m u hk hm hu => withCrc_eq_crc16 hk hm hu⟩⟩
  obtain ⟨w, q', hw, htrace, hqOut⟩ := sending_waits hopen hs hq e ht
  exact ⟨w, withCrc h, q', hw, htrace, hqOut, withCrc_toHeader h, fun now' s' r hopen' hs' hq' hfree =>
    sending_writes now' hopen' hs' hq' hfree ((encodePacket_withCrc h).trans hw)⟩

end Sys2Proof.Machine

namespace Sys2Proof.Machine
open Sys2Proof Sys2Proof.Safety

/-! ### A handler that never returns (U13, log 11) -/

section Stalling

variable {s : State}

/-- The handler called now never returns: the event is out, and the worker stands still (U13). -/
theorem fire_of_stalling (e : Event) (h : s.env.handlerStall = some 0) :
    s.fire e = { s with link := { s.link with stalled := true }, trace := s.trace ++ [.event e] } := by
  have hcall : s.env.afterCall = s.env := by rw [Env.afterCall, h, Option.map_some, Nat.zero_sub, ← h]
  have hstalls : s.env.stalls = true := decide_eq_true h
  rw [State.fire, hcall, hstalls, Bool.or_true]
  rfl

/-- The handler called now returns, and one call fewer is left before the one that does not. -/
theorem fire_of_later_stall {k : Nat} (e : Event) (h : s.env.handlerStall = some (k + 1)) :
    s.fire e = { s with trace := s.trace ++ [.event e], env := { s.env with handlerStall := some k } } := by
  have hcall : s.env.afterCall = { s.env with handlerStall := some k } := by rw [Env.afterCall, h]; rfl
  have hstalls : s.env.stalls = false := by simp [Env.stalls, h]
  rw [State.fire, hcall, hstalls, Bool.or_false]
  rfl

/-- The event of a packet's end is its last act when the handler does not return: popped, but not yet at Idle (R375, U13). -/
theorem popHead_fire_of_stalling (f : State → State) (e : Event) (h : s.env.handlerStall = some 0) :
    unlessStalled f ((s.mapLink popHead).fire e) =
      { s with link := { popHead s.link with stalled := true }, trace := s.trace ++ [.event e] } := by
  rw [fire_of_stalling (s := s.mapLink popHead) e h]
  exact unlessStalled_of_stalled rfl

theorem terminate_of_stalling (e : Event) (h : s.env.handlerStall = some 0) :
    terminate e s = { s with link := { popHead s.link with stalled := true }, trace := s.trace ++ [.event e] } :=
  popHead_fire_of_stalling _ e h

end Stalling

/-! ### The scan of `Q_ACK` up to the stall -/

/-- The state once the entries `taken` have been observed, and `k` more handler calls return before the one that never does. -/
def observeLeaving (k : Nat) (taken rest : List Packet) (s : State) : State :=
  { observeAcks taken rest s with env := { s.env with handlerStall := some k } }

section Scan

variable (now : Nat) {s : State} {h a : Packet} {before after : List Packet}

/-- The handler of the entry after `before` never returns: the scan ends there, whether or not the entry matches (R280, U13). -/
theorem waitAckAction_of_stall (hgo : s.link.stalled = false) (hstall : s.env.handlerStall = some before.length)
    (hq : s.link.qAck = before ++ a :: after) (hskip : ∀ x ∈ before, x.seq ≠ h.seq) :
    waitAckAction now h s = .next (observeLeaving 0 (before ++ [a]) after (s.mapLink stall)) := by
  have hscan := scanAcks_skips (k := 0) before (a :: after) s hq hstall hgo hskip
  let r : State := observeLeaving 0 before (a :: after) s
  have htake : takeAck a after r = observeLeaving 0 (before ++ [a]) after (s.mapLink stall) := by
    rw [takeAck, fire_of_stalling (s := r.mapLink fun l => { l with qAck := after }) _ rfl]
    simp [r, observeLeaving, observeAcks, State.mapLink, stall]
  have hfirst : scanAcks h.seq (a :: after) r = (none, takeAck a after r) := by
    rw [scanAcks, if_pos (by rw [htake]; rfl)]
  rw [waitAckAction, hq, hscan]
  change handleAcks now h (scanAcks h.seq (a :: after) r) = _
  rw [hfirst, htake]
  exact if_pos rfl

/-- The match is found by the last handler call that returns (R280, U13). -/
theorem waitAckAction_of_found_before_stall (hgo : s.link.stalled = false)
    (hstall : s.env.handlerStall = some (before.length + 1)) (hq : s.link.qAck = before ++ a :: after)
    (hskip : ∀ x ∈ before, x.seq ≠ h.seq) (hmatch : a.seq = h.seq) :
    waitAckAction now h s = afterScan now h (some a) (observeLeaving 0 (before ++ [a]) after s) := by
  have hscan := scanAcks_skips (k := 1) before (a :: after) s hq hstall hgo hskip
  let r : State := observeLeaving 1 before (a :: after) s
  have htake : takeAck a after r = observeLeaving 0 (before ++ [a]) after s := by
    rw [takeAck, fire_of_later_stall (s := r.mapLink fun l => { l with qAck := after }) (k := 0) _ rfl]
    simp [r, observeLeaving, observeAcks, State.mapLink]
  have hrgo : (takeAck a after r).link.stalled = false := by rw [htake]; exact hgo
  have hfirst : scanAcks h.seq (a :: after) r = (some a, takeAck a after r) := by
    rw [scanAcks, if_neg (by rw [hrgo]; exact Bool.false_ne_true), if_pos hmatch]
  rw [waitAckAction, hq, hscan]
  change handleAcks now h (scanAcks h.seq (a :: after) r) = _
  rw [hfirst, handleAcks, ← htake]
  exact if_neg (by rw [hrgo]; exact Bool.false_ne_true)

/-- No entry matches, and every handler the scan calls returns (R280, U13). -/
theorem waitAckAction_of_none_before_stall {k : Nat} (hgo : s.link.stalled = false)
    (hstall : s.env.handlerStall = some (s.link.qAck.length + k)) (hskip : ∀ x ∈ s.link.qAck, x.seq ≠ h.seq) :
    waitAckAction now h s =
      afterScan now h none (observeLeaving k s.link.qAck [] s) := by
  have hscan := scanAcks_skips s.link.qAck [] s (List.append_nil _).symm hstall hgo hskip
  rw [List.append_nil] at hscan
  rw [waitAckAction, hscan]
  exact if_neg (by simp [scanAcks, hgo])

end Scan

/-! ### Where the worker stands -/

/-- Phase 2 does all it does where handlers return; the one it calls may be the one that never does (U13). -/
theorem phase2_of_env (now : Nat) (s : State) :
    let t := phase2 now { s with env := { s.env with handlerStall := none } }
    (t.trace = s.trace → phase2 now s = { t with env := s.env }) ∧
    (t.trace ≠ s.trace →
      phase2 now s =
        { t with
          link := { t.link with stalled := s.link.stalled || decide (s.env.handlerStall = some 0) }
          env := { s.env with handlerStall := s.env.handlerStall.map (· - 1) } }) := by
  intro t
  let v : Env := { s.env with handlerStall := none }
  obtain ⟨l, hl, hno | ⟨e, hcall⟩⟩ := phase2_cases now s
  · have ht : t = { s with env := v, link := l } := hno v
    rw [show phase2 now s = _ from hno s.env, ht]
    exact ⟨fun _ => rfl, fun hne => absurd rfl hne⟩
  · have ht : t = ({ s with env := v, link := l } : State).fire e := hcall v
    rw [show phase2 now s = _ from hcall s.env, ht]
    refine ⟨fun heq => absurd heq (by simp), fun _ => ?_⟩
    simp [State.fire, State.emit, Env.stalls, Env.afterCall, hl.stalled, v]

/-! ### The calls of Sending -/

section StalledSending

variable (now : Nat) {s : State} {l : Link} {h : Packet} {q : List Packet} {w : List Byte}
  (hsend : s.link.sendState = .sending) (hout : s.link.qOut = h :: q) (hw : encodePacket h = some w)
  (hfresh : isStale now s = false) (hl : detectReset s.params h s.link = l)

include hsend hout hw hfresh hl

/-- The write never returns: the bytes are handed over, and the other agents go on beside a worker that stands still (U9). -/
theorem phase3_of_stalled_write (hwrites : s.env.writeReturns = false) :
    phase3 now s = .next (runAgents s.env.gaps.duringWrite ((handedOver l h q w s).mapLink stall)) := by
  rw [phase3_of_writing now hsend hout hw hfresh hl, hwrites]
  rfl

/-- The write returns, and the handler that hears of it does not (U13). -/
theorem phase3_of_stalled_report (hwrites : s.env.writeReturns = true) (hstall : s.env.handlerStall = some 0) :
    let m := runAgents s.env.gaps.duringWrite (handedOver l h q w s)
    phase3 now s =
      .next { m with link := { m.link with stalled := true }, trace := m.trace ++ [.event (.onRawBytesSent w)] } := by
  intro m
  have hmstall : m.env.handlerStall = some 0 := (congrArg Env.handlerStall (runAgents_env _ _)).trans hstall
  rw [phase3_of_writing now hsend hout hw hfresh hl, if_pos hwrites]
  change Host.Outcome.next (unlessStalled _ (m.fire _)) = _
  rw [fire_of_stalling _ hmstall, unlessStalled_of_stalled rfl]

/-- The answer that was owed is popped, and the handler that hears of it does not return (R276, U13). -/
theorem phase3_of_stalled_answer (hopen : s.linkOpen = true) (hgo : s.link.stalled = false)
    (hwrites : s.env.writeReturns = true) (hstall : s.env.handlerStall = some 1) (hm : isMessage h.kind = true)
    (howed : s.link.requestOpen = true) :
    let m := runAgents s.env.gaps.duringWrite (handedOver l h q w s)
    phase3 now s =
      .next { m with
        link := { m.link with qOut := m.link.qOut.tail, ackToCnt := 0, nackCnt := 0, stalled := true }
        trace := m.trace ++ [.event (.onRawBytesSent w), .event (.onPacketSent (withCrc h))]
        env := { s.env with handlerStall := some 0 } } := by
  intro m
  have hframe : AgentFrame (handedOver l h q w s) m := runAgents_frame _ _ hopen
  have hmenv : m.env = s.env := hframe.env
  have hlgo : l.stalled = false := by rw [← hl, detectReset_stalled, hgo]
  have hlowed : l.requestOpen = true := by rw [← hl, detectReset_requestOpen, howed]
  have hmgo : m.link.stalled = false := hframe.stalled.trans hlgo
  have hmowed : m.link.requestOpen = true := hframe.requestOpen.trans hlowed
  let sent : State :=
    { m with trace := m.trace ++ [.event (.onRawBytesSent w)], env := { s.env with handlerStall := some 0 } }
  have hsent : m.fire (.onRawBytesSent w) = sent := by
    rw [fire_of_later_stall (k := 0) _ (hmenv ▸ hstall), hmenv]
  have hmk : isMessage (withCrc h).kind = true := (withCrc_kind h).symm ▸ hm
  rw [phase3_of_writing now hsend hout hw hfresh hl, if_pos hwrites]
  change Host.Outcome.next (unlessStalled _ (m.fire _)) = _
  rw [hsent, unlessStalled_of_ready (s := sent) hmgo, dispose_of_answer (s := sent) now hmk hmowed, answerSent,
    popHead_fire_of_stalling (s := sent) _ _ rfl]
  simp [sent, popHead]

end StalledSending

/-! ### The calls of WaitingForAck and WaitingForResponse -/

section StalledWaiting

variable (now : Nat) {s : State} {h a : Packet} {q before after : List Packet} (hout : s.link.qOut = h :: q)

include hout

/-- The end of a packet whose handler does not return, the acks up to `a` observed (R375, U13). -/
theorem terminate_observed_of_stalling (e : Event) (taken rest : List Packet) :
    terminate e (observeLeaving 0 taken rest s) =
      { s with
        link := { s.link with qAck := rest, qOut := q, ackToCnt := 0, nackCnt := 0, stalled := true }
        trace := s.trace ++ (taken.map fun x => .event (.onAckNackObserved false (some x))) ++ [.event e]
        env := { s.env with handlerStall := some 0 } } := by
  rw [terminate_of_stalling e rfl]
  simp [observeLeaving, observeAcks, popHead, hout]

variable (hsend : s.link.sendState = .waitingForAck) (hgo : s.link.stalled = false)

include hsend hgo

/-- A handler of the scan never returns (R280, U13). -/
theorem phase3_of_stalled_scan (hstall : s.env.handlerStall = some before.length) (hq : s.link.qAck = before ++ a :: after)
    (hskip : ∀ x ∈ before, x.seq ≠ h.seq) :
    phase3 now s = .next (observeLeaving 0 (before ++ [a]) after (s.mapLink stall)) := by
  rw [phase3_of_waitingForAck now hsend hout, waitAckAction_of_stall now hgo hstall hq hskip]

/-- The handler of a packet's success never returns (R281, U13). -/
theorem phase3_of_stalled_success (hstall : s.env.handlerStall = some (before.length + 1))
    (hq : s.link.qAck = before ++ a :: after) (hskip : ∀ x ∈ before, x.seq ≠ h.seq) (hmatch : a.seq = h.seq)
    (hk : a.kind = .positiveAck) (hreq : h.kind ≠ .request) :
    phase3 now s = .next (terminate (.onPacketSent h) (observeLeaving 0 (before ++ [a]) after s)) := by
  rw [phase3_of_waitingForAck now hsend hout, waitAckAction_of_found_before_stall now hgo hstall hq hskip hmatch,
    afterScan_of_positiveAck now h hk, onPositiveAck, if_neg hreq]

/-- The handler of a packet given up after NegativeAcks never returns (R282, U13). -/
theorem phase3_of_stalled_failure (hstall : s.env.handlerStall = some (before.length + 1))
    (hq : s.link.qAck = before ++ a :: after) (hskip : ∀ x ∈ before, x.seq ≠ h.seq) (hmatch : a.seq = h.seq)
    (hk : a.kind = .negativeAck) (hmax : s.link.nackCnt + 1 > s.link.cfg.maxRetx) :
    phase3 now s = .next (terminate (.onNackFail h) (observeLeaving 0 (before ++ [a]) after (s.mapLink countNack))) := by
  rw [phase3_of_waitingForAck now hsend hout, waitAckAction_of_found_before_stall now hgo hstall hq hskip hmatch,
    afterScan_of_negativeAck now h hk,
    onNegativeAck_of_exceeds (s := observeLeaving 0 (before ++ [a]) after s) h hmax]
  rfl

variable (hskip : ∀ x ∈ s.link.qAck, x.seq ≠ h.seq)
  (hlate : elapsed s.params now s.link.tSend s.link.cfg.ackTimeout = true)

include hskip hlate

/-- The handler that hears of the ack timeout never returns (R283, U13). -/
theorem phase3_of_stalled_timeout (hstall : s.env.handlerStall = some s.link.qAck.length) :
    phase3 now s =
      .next ((observeLeaving 0 s.link.qAck [] (s.mapLink stall)).emit (.event (.onAckNackObserved true none))) := by
  let r : State := observeLeaving 0 s.link.qAck [] s
  rw [phase3_of_waitingForAck now hsend hout, waitAckAction_of_none_before_stall now (k := 0) hgo hstall hskip,
    afterScan_of_elapsed (s := r) now h hlate, onAckTimeout, fire_of_stalling (s := r) _ rfl, unlessStalled_of_stalled rfl]
  rfl

/-- The handler of a packet given up after ack timeouts never returns (R283, U13). -/
theorem phase3_of_stalled_giveUp (hstall : s.env.handlerStall = some (s.link.qAck.length + 1))
    (hmax : s.link.ackToCnt + 1 > s.link.cfg.maxRetx) :
    phase3 now s =
      .next (terminate (.onAckTimeout h)
        ((observeLeaving 0 s.link.qAck [] (s.mapLink countTimeout)).emit (.event (.onAckNackObserved true none)))) := by
  let r : State := observeLeaving 1 s.link.qAck [] s
  let heard : State := (observeLeaving 0 s.link.qAck [] s).emit (.event (.onAckNackObserved true none))
  have hheard : r.fire (.onAckNackObserved true none) = heard := fire_of_later_stall (s := r) (k := 0) _ rfl
  rw [phase3_of_waitingForAck now hsend hout, waitAckAction_of_none_before_stall now (k := 1) hgo hstall hskip,
    afterScan_of_elapsed (s := r) now h hlate, onAckTimeout, hheard, unlessStalled_of_ready (s := heard) hgo,
    retryOrGiveUp_of_exceeds (s := heard) h hmax]
  rfl

end StalledWaiting

/-- The handler of a response timeout never returns (R288, U13). -/
theorem phase3_of_stalled_response_timeout (now : Nat) {s : State} {h : Packet} {q : List Packet}
    (hout : s.link.qOut = h :: q) (hsend : s.link.sendState = .waitingForResponse) (hstall : s.env.handlerStall = some 0)
    (hflag : s.link.responseReceived = false) (hlate : elapsed s.params now s.link.tSend s.link.cfg.respTimeout = true) :
    phase3 now s =
      .next { s with
        link := { s.link with qOut := q, ackToCnt := 0, nackCnt := 0, stalled := true }
        trace := s.trace ++ [.event (.onResponseTimeout h)] } := by
  rw [phase3_of_waitingForResponse now hsend hout, waitResponseAction, hflag, if_neg Bool.false_ne_true, if_pos hlate,
    terminate_of_stalling _ hstall, popHead, hout, List.tail_cons]

/-- Settles O48: for each call of the worker, the phase up to it, the stall, and nothing after it. -/
theorem stalledCallStopsTheWorker : Obligations.StalledCallStopsTheWorker := by
  unfold Obligations.StalledCallStopsTheWorker
  intro now s h q waited observed called
  have helapsed : ∀ since limit, limit ≤ waited since → elapsed s.params now since limit = true := fun since limit hle => by
    rw [elapsed_eq]
    exact decide_eq_true hle
  refine ⟨fun hopen hstill => ?_, phase2_of_env now s, fun hout hsend => ?_, fun hout hsend hready => ?_,
    fun hout hsend hstall hflag hlate =>
      phase3_of_stalled_response_timeout now hout hsend hstall hflag (helapsed _ _ hlate)⟩
  · simp [exec_tick, execTick, hopen, hstill]
  · intro l w hw hwaited restarted hre hno m
    have hreset : isResetReply s.params h = true ↔ restarted := isResetReply_iff s.params h
    have hl : detectReset s.params h s.link = l := detectReset_eq (fun hr => hre (hreset.1 hr)) fun hr => hno (mt hreset.2 hr)
    have hfresh : isStale now s = false := isStale_eq_false hwaited
    exact ⟨phase3_of_stalled_write now hsend hout hw hfresh hl, phase3_of_stalled_report now hsend hout hw hfresh hl,
      fun hwrites hstall hopen hready => phase3_of_stalled_answer now hsend hout hw hfresh hl hopen (stalled_of_ready hready)
        hwrites hstall⟩
  · have hgo : s.link.stalled = false := stalled_of_ready hready
    refine ⟨fun before after a hq hskip =>
        ⟨fun hstall => ?_, fun hstall hmatch hk hreq => ?_, fun hstall hmatch hk hmax => ?_⟩,
      fun hskip hlate => ⟨fun hstall => ?_, fun hstall hmax => ?_⟩⟩
    · exact phase3_of_stalled_scan now hout hsend hgo hstall hq hskip
    · rw [phase3_of_stalled_success now hout hsend hgo hstall hq hskip hmatch hk hreq, terminate_observed_of_stalling hout]
    · rw [phase3_of_stalled_failure now hout hsend hgo hstall hq hskip hmatch hk hmax,
        terminate_observed_of_stalling (s := s.mapLink countNack) hout]
      rfl
    · rw [phase3_of_stalled_timeout now hout hsend hgo hskip (helapsed _ _ hlate) hstall]
      rfl
    · rw [phase3_of_stalled_giveUp now hout hsend hgo hskip (helapsed _ _ hlate) hstall hmax,
        terminate_of_stalling _ rfl]
      simp [observeLeaving, observeAcks, popHead, hout, called, observed]

end Sys2Proof.Machine
